-- ==== Sys2Proof/Word.lean ====
section
/-!
DEFINITION. The machine's words (R10, R11): 32-bit registers and addresses, 16-bit instruction words, 8-bit bytes,
the register numbers R0 to R15, and the sign and zero extensions the spec writes `sext_N` and `zext_N`.
-/

namespace Sys2Proof

/-- A 32-bit register or address (R10 `XLEN`). -/
abbrev Word := BitVec 32

/-- A 16-bit instruction word or device register (R10 `ILEN`). -/
abbrev Half := BitVec 16

/-- One byte of memory, the smallest addressable unit (R80). -/
abbrev Byte := BitVec 8

/-- The number of a general register, 0 to 15 (R10 `NREG`, R20). -/
abbrev Reg := Fin 16

/-- `R0`, the implicit operand of the forms with no room for a second register (R21). -/
abbrev Reg.r0 : Reg := 0

/-- `R15`, the stack pointer (R21). -/
abbrev Reg.sp : Reg := 15

/-- `sext_N(v)` of R11: the two's-complement reading of `v`, as 32 bits. -/
abbrev sext {n : Nat} (v : BitVec n) : Word := v.signExtend 32

/-- `zext_N(v)` of R11. -/
abbrev zext {n : Nat} (v : BitVec n) : Word := v.setWidth 32

end Sys2Proof
end

