-- ==== Sys2Proof/Syntax.lean ====
section
/-!
DEFINITION. The instruction set: one constructor for each of the 142 rows of spec/opcode_table.json (R130), its
operands in the order of the assembler, source first (R144). A register is its number; an immediate or displacement
is the field as it stands in the word, its extension and scaling being part of the meaning (R123).
-/

namespace Sys2Proof

/-- An SH2 instruction. -/
inductive Instr
  -- Data transfer (spec/42_sh2_data_transfer.md)
  /-- `MOV #imm,Rn` (R201). -/
  | movImm (imm : BitVec 8) (n : Reg)
  /-- `MOV.W @(disp,PC),Rn` (R202). -/
  | movwLoadPc (disp : BitVec 8) (n : Reg)
  /-- `MOV.L @(disp,PC),Rn` (R203). -/
  | movlLoadPc (disp : BitVec 8) (n : Reg)
  /-- `MOV Rm,Rn` (R204). -/
  | movReg (m : Reg) (n : Reg)
  /-- `MOV.B Rm,@Rn` (R205). -/
  | movbStore (m : Reg) (n : Reg)
  /-- `MOV.W Rm,@Rn` (R206). -/
  | movwStore (m : Reg) (n : Reg)
  /-- `MOV.L Rm,@Rn` (R207). -/
  | movlStore (m : Reg) (n : Reg)
  /-- `MOV.B @Rm,Rn` (R208). -/
  | movbLoad (m : Reg) (n : Reg)
  /-- `MOV.W @Rm,Rn` (R209). -/
  | movwLoad (m : Reg) (n : Reg)
  /-- `MOV.L @Rm,Rn` (R210). -/
  | movlLoad (m : Reg) (n : Reg)
  /-- `MOV.B Rm,@-Rn` (R211). -/
  | movbPush (m : Reg) (n : Reg)
  /-- `MOV.W Rm,@-Rn` (R212). -/
  | movwPush (m : Reg) (n : Reg)
  /-- `MOV.L Rm,@-Rn` (R213). -/
  | movlPush (m : Reg) (n : Reg)
  /-- `MOV.B @Rm+,Rn` (R214). -/
  | movbPop (m : Reg) (n : Reg)
  /-- `MOV.W @Rm+,Rn` (R215). -/
  | movwPop (m : Reg) (n : Reg)
  /-- `MOV.L @Rm+,Rn` (R216). -/
  | movlPop (m : Reg) (n : Reg)
  /-- `MOV.B R0,@(disp,Rn)` (R217). -/
  | movbStoreDisp (disp : BitVec 4) (n : Reg)
  /-- `MOV.W R0,@(disp,Rn)` (R218). -/
  | movwStoreDisp (disp : BitVec 4) (n : Reg)
  /-- `MOV.L Rm,@(disp,Rn)` (R219). -/
  | movlStoreDisp (m : Reg) (disp : BitVec 4) (n : Reg)
  /-- `MOV.B @(disp,Rm),R0` (R220). -/
  | movbLoadDisp (disp : BitVec 4) (m : Reg)
  /-- `MOV.W @(disp,Rm),R0` (R221). -/
  | movwLoadDisp (disp : BitVec 4) (m : Reg)
  /-- `MOV.L @(disp,Rm),Rn` (R222). -/
  | movlLoadDisp (disp : BitVec 4) (m : Reg) (n : Reg)
  /-- `MOV.B Rm,@(R0,Rn)` (R223). -/
  | movbStoreIdx (m : Reg) (n : Reg)
  /-- `MOV.W Rm,@(R0,Rn)` (R224). -/
  | movwStoreIdx (m : Reg) (n : Reg)
  /-- `MOV.L Rm,@(R0,Rn)` (R225). -/
  | movlStoreIdx (m : Reg) (n : Reg)
  /-- `MOV.B @(R0,Rm),Rn` (R226). -/
  | movbLoadIdx (m : Reg) (n : Reg)
  /-- `MOV.W @(R0,Rm),Rn` (R227). -/
  | movwLoadIdx (m : Reg) (n : Reg)
  /-- `MOV.L @(R0,Rm),Rn` (R228). -/
  | movlLoadIdx (m : Reg) (n : Reg)
  /-- `MOV.B R0,@(disp,GBR)` (R229). -/
  | movbStoreGbr (disp : BitVec 8)
  /-- `MOV.W R0,@(disp,GBR)` (R230). -/
  | movwStoreGbr (disp : BitVec 8)
  /-- `MOV.L R0,@(disp,GBR)` (R231). -/
  | movlStoreGbr (disp : BitVec 8)
  /-- `MOV.B @(disp,GBR),R0` (R232). -/
  | movbLoadGbr (disp : BitVec 8)
  /-- `MOV.W @(disp,GBR),R0` (R233). -/
  | movwLoadGbr (disp : BitVec 8)
  /-- `MOV.L @(disp,GBR),R0` (R234). -/
  | movlLoadGbr (disp : BitVec 8)
  /-- `MOVA @(disp,PC),R0` (R235). -/
  | mova (disp : BitVec 8)
  /-- `MOVT Rn` (R236). -/
  | movt (n : Reg)
  /-- `SWAP.B Rm,Rn` (R237). -/
  | swapb (m : Reg) (n : Reg)
  /-- `SWAP.W Rm,Rn` (R238). -/
  | swapw (m : Reg) (n : Reg)
  /-- `XTRCT Rm,Rn` (R239). -/
  | xtrct (m : Reg) (n : Reg)
  -- Arithmetic (spec/43_sh2_arithmetic.md)
  /-- `ADD Rm,Rn` (R251). -/
  | addReg (m : Reg) (n : Reg)
  /-- `ADD #imm,Rn` (R252). -/
  | addImm (imm : BitVec 8) (n : Reg)
  /-- `ADDC Rm,Rn` (R253). -/
  | addc (m : Reg) (n : Reg)
  /-- `ADDV Rm,Rn` (R254). -/
  | addv (m : Reg) (n : Reg)
  /-- `CMP/EQ #imm,R0` (R255). -/
  | cmpEqImm (imm : BitVec 8)
  /-- `CMP/EQ Rm,Rn` (R256). -/
  | cmpEqReg (m : Reg) (n : Reg)
  /-- `CMP/HS Rm,Rn` (R257). -/
  | cmpHs (m : Reg) (n : Reg)
  /-- `CMP/GE Rm,Rn` (R258). -/
  | cmpGe (m : Reg) (n : Reg)
  /-- `CMP/HI Rm,Rn` (R259). -/
  | cmpHi (m : Reg) (n : Reg)
  /-- `CMP/GT Rm,Rn` (R260). -/
  | cmpGt (m : Reg) (n : Reg)
  /-- `CMP/PL Rn` (R261). -/
  | cmpPl (n : Reg)
  /-- `CMP/PZ Rn` (R262). -/
  | cmpPz (n : Reg)
  /-- `CMP/STR Rm,Rn` (R263). -/
  | cmpStr (m : Reg) (n : Reg)
  /-- `DIV1 Rm,Rn` (R264). -/
  | div1 (m : Reg) (n : Reg)
  /-- `DIV0S Rm,Rn` (R265). -/
  | div0s (m : Reg) (n : Reg)
  /-- `DIV0U` (R266). -/
  | div0u
  /-- `DMULS.L Rm,Rn` (R267). -/
  | dmulsl (m : Reg) (n : Reg)
  /-- `DMULU.L Rm,Rn` (R268). -/
  | dmulul (m : Reg) (n : Reg)
  /-- `DT Rn` (R269). -/
  | dt (n : Reg)
  /-- `EXTS.B Rm,Rn` (R270). -/
  | extsb (m : Reg) (n : Reg)
  /-- `EXTS.W Rm,Rn` (R271). -/
  | extsw (m : Reg) (n : Reg)
  /-- `EXTU.B Rm,Rn` (R272). -/
  | extub (m : Reg) (n : Reg)
  /-- `EXTU.W Rm,Rn` (R273). -/
  | extuw (m : Reg) (n : Reg)
  /-- `MAC.L @Rm+,@Rn+` (R274). -/
  | macL (m : Reg) (n : Reg)
  /-- `MAC.W @Rm+,@Rn+` (R275). -/
  | macW (m : Reg) (n : Reg)
  /-- `MUL.L Rm,Rn` (R276). -/
  | mull (m : Reg) (n : Reg)
  /-- `MULS.W Rm,Rn` (R277). -/
  | mulsw (m : Reg) (n : Reg)
  /-- `MULU.W Rm,Rn` (R278). -/
  | muluw (m : Reg) (n : Reg)
  /-- `NEG Rm,Rn` (R279). -/
  | negReg (m : Reg) (n : Reg)
  /-- `NEGC Rm,Rn` (R280). -/
  | negc (m : Reg) (n : Reg)
  /-- `SUB Rm,Rn` (R281). -/
  | subReg (m : Reg) (n : Reg)
  /-- `SUBC Rm,Rn` (R282). -/
  | subc (m : Reg) (n : Reg)
  /-- `SUBV Rm,Rn` (R283). -/
  | subv (m : Reg) (n : Reg)
  -- Logic and shift (spec/44_sh2_logic_shift.md)
  /-- `AND Rm,Rn` (R291). -/
  | andReg (m : Reg) (n : Reg)
  /-- `AND #imm,R0` (R292). -/
  | andImm (imm : BitVec 8)
  /-- `AND.B #imm,@(R0,GBR)` (R293). -/
  | andbGbr (imm : BitVec 8)
  /-- `NOT Rm,Rn` (R294). -/
  | notReg (m : Reg) (n : Reg)
  /-- `OR Rm,Rn` (R295). -/
  | orReg (m : Reg) (n : Reg)
  /-- `OR #imm,R0` (R296). -/
  | orImm (imm : BitVec 8)
  /-- `OR.B #imm,@(R0,GBR)` (R297). -/
  | orbGbr (imm : BitVec 8)
  /-- `TAS.B @Rn` (R298). -/
  | tasb (n : Reg)
  /-- `TST Rm,Rn` (R299). -/
  | tstReg (m : Reg) (n : Reg)
  /-- `TST #imm,R0` (R300). -/
  | tstImm (imm : BitVec 8)
  /-- `TST.B #imm,@(R0,GBR)` (R301). -/
  | tstbGbr (imm : BitVec 8)
  /-- `XOR Rm,Rn` (R302). -/
  | xorReg (m : Reg) (n : Reg)
  /-- `XOR #imm,R0` (R303). -/
  | xorImm (imm : BitVec 8)
  /-- `XOR.B #imm,@(R0,GBR)` (R304). -/
  | xorbGbr (imm : BitVec 8)
  /-- `ROTL Rn` (R305). -/
  | rotl (n : Reg)
  /-- `ROTR Rn` (R306). -/
  | rotr (n : Reg)
  /-- `ROTCL Rn` (R307). -/
  | rotcl (n : Reg)
  /-- `ROTCR Rn` (R308). -/
  | rotcr (n : Reg)
  /-- `SHAL Rn` (R309). -/
  | shal (n : Reg)
  /-- `SHAR Rn` (R310). -/
  | shar (n : Reg)
  /-- `SHLL Rn` (R311). -/
  | shll (n : Reg)
  /-- `SHLR Rn` (R312). -/
  | shlr (n : Reg)
  /-- `SHLL2 Rn` (R313). -/
  | shll2 (n : Reg)
  /-- `SHLR2 Rn` (R314). -/
  | shlr2 (n : Reg)
  /-- `SHLL8 Rn` (R315). -/
  | shll8 (n : Reg)
  /-- `SHLR8 Rn` (R316). -/
  | shlr8 (n : Reg)
  /-- `SHLL16 Rn` (R317). -/
  | shll16 (n : Reg)
  /-- `SHLR16 Rn` (R318). -/
  | shlr16 (n : Reg)
  -- Branches (spec/45_sh2_branch.md)
  /-- `BF disp` (R331). -/
  | bf (disp : BitVec 8)
  /-- `BF/S disp` (R332). -/
  | bfs (disp : BitVec 8)
  /-- `BT disp` (R333). -/
  | bt (disp : BitVec 8)
  /-- `BT/S disp` (R334). -/
  | bts (disp : BitVec 8)
  /-- `BRA disp` (R335). -/
  | bra (disp : BitVec 12)
  /-- `BRAF Rm` (R336). -/
  | braf (m : Reg)
  /-- `BSR disp` (R337). -/
  | bsr (disp : BitVec 12)
  /-- `BSRF Rm` (R338). -/
  | bsrf (m : Reg)
  /-- `JMP @Rm` (R339). -/
  | jmp (m : Reg)
  /-- `JSR @Rm` (R340). -/
  | jsr (m : Reg)
  /-- `RTS` (R341). -/
  | rts
  -- System control (spec/46_sh2_system.md)
  /-- `CLRT` (R351). -/
  | clrt
  /-- `CLRMAC` (R352). -/
  | clrmac
  /-- `LDC Rm,SR` (R353). -/
  | ldcSr (m : Reg)
  /-- `LDC Rm,GBR` (R354). -/
  | ldcGbr (m : Reg)
  /-- `LDC Rm,VBR` (R355). -/
  | ldcVbr (m : Reg)
  /-- `LDC.L @Rm+,SR` (R356). -/
  | ldclSr (m : Reg)
  /-- `LDC.L @Rm+,GBR` (R357). -/
  | ldclGbr (m : Reg)
  /-- `LDC.L @Rm+,VBR` (R358). -/
  | ldclVbr (m : Reg)
  /-- `LDS Rm,MACH` (R359). -/
  | ldsMach (m : Reg)
  /-- `LDS Rm,MACL` (R360). -/
  | ldsMacl (m : Reg)
  /-- `LDS Rm,PR` (R361). -/
  | ldsPr (m : Reg)
  /-- `LDS.L @Rm+,MACH` (R362). -/
  | ldslMach (m : Reg)
  /-- `LDS.L @Rm+,MACL` (R363). -/
  | ldslMacl (m : Reg)
  /-- `LDS.L @Rm+,PR` (R364). -/
  | ldslPr (m : Reg)
  /-- `NOP` (R365). -/
  | nop
  /-- `TRAPA #imm` (R366). -/
  | trapa (imm : BitVec 8)
  /-- `SLEEP` (R367). -/
  | sleep
  /-- `SETT` (R368). -/
  | sett
  /-- `STC SR,Rn` (R369). -/
  | stcSr (n : Reg)
  /-- `STC GBR,Rn` (R370). -/
  | stcGbr (n : Reg)
  /-- `STC VBR,Rn` (R371). -/
  | stcVbr (n : Reg)
  /-- `STC.L SR,@-Rn` (R372). -/
  | stclSr (n : Reg)
  /-- `STC.L GBR,@-Rn` (R373). -/
  | stclGbr (n : Reg)
  /-- `STC.L VBR,@-Rn` (R374). -/
  | stclVbr (n : Reg)
  /-- `STS MACH,Rn` (R375). -/
  | stsMach (n : Reg)
  /-- `STS MACL,Rn` (R376). -/
  | stsMacl (n : Reg)
  /-- `STS PR,Rn` (R377). -/
  | stsPr (n : Reg)
  /-- `STS.L MACH,@-Rn` (R378). -/
  | stslMach (n : Reg)
  /-- `STS.L MACL,@-Rn` (R379). -/
  | stslMacl (n : Reg)
  /-- `STS.L PR,@-Rn` (R380). -/
  | stslPr (n : Reg)
  /-- `RTE` (R381). -/
  | rte
deriving DecidableEq, Repr

end Sys2Proof
end

