-- ==== Sys2Proof/Decode.lean ====
section
/-!
DEFINITION. The decoder and the encoder (R120 to R143). Decoding is a pure function of the 16-bit word (R124): first by
its top four bits, then by the minor opcode bits of the rows that share them. A word that matches no row is refused by
name (R140). The encoder stands after it, written from the same table. The delay-slot classification of R180 is here
too, since it is a table of bit patterns.
-/

namespace Sys2Proof

/-- The register field of four bits whose lowest bit is `lo` (R121). -/
def regField (w : Half) (lo : Nat) : Reg := (w.extractLsb' lo 4).toFin

/-- The rows whose top four bits are 0x0 (R130). -/
def decodeMajor0 (w : Half) : Option Instr :=
  match w.extractLsb' 0 4 with
  | 0x2#4 =>
    match w.extractLsb' 4 4 with
    | 0x0#4 => some (.stcSr (regField w 8))
    | 0x1#4 => some (.stcGbr (regField w 8))
    | 0x2#4 => some (.stcVbr (regField w 8))
    | _ => none
  | 0x3#4 =>
    match w.extractLsb' 4 4 with
    | 0x0#4 => some (.bsrf (regField w 8))
    | 0x2#4 => some (.braf (regField w 8))
    | _ => none
  | 0x4#4 => some (.movbStoreIdx (regField w 4) (regField w 8))
  | 0x5#4 => some (.movwStoreIdx (regField w 4) (regField w 8))
  | 0x6#4 => some (.movlStoreIdx (regField w 4) (regField w 8))
  | 0x7#4 => some (.mull (regField w 4) (regField w 8))
  | 0x8#4 =>
    match w.extractLsb' 4 4 with
    | 0x0#4 => if w.extractLsb' 8 4 = 0x0#4 then some .clrt else none
    | 0x1#4 => if w.extractLsb' 8 4 = 0x0#4 then some .sett else none
    | 0x2#4 => if w.extractLsb' 8 4 = 0x0#4 then some .clrmac else none
    | _ => none
  | 0x9#4 =>
    match w.extractLsb' 4 4 with
    | 0x0#4 => if w.extractLsb' 8 4 = 0x0#4 then some .nop else none
    | 0x1#4 => if w.extractLsb' 8 4 = 0x0#4 then some .div0u else none
    | 0x2#4 => some (.movt (regField w 8))
    | _ => none
  | 0xA#4 =>
    match w.extractLsb' 4 4 with
    | 0x0#4 => some (.stsMach (regField w 8))
    | 0x1#4 => some (.stsMacl (regField w 8))
    | 0x2#4 => some (.stsPr (regField w 8))
    | _ => none
  | 0xB#4 =>
    match w.extractLsb' 4 4 with
    | 0x0#4 => if w.extractLsb' 8 4 = 0x0#4 then some .rts else none
    | 0x1#4 => if w.extractLsb' 8 4 = 0x0#4 then some .sleep else none
    | 0x2#4 => if w.extractLsb' 8 4 = 0x0#4 then some .rte else none
    | _ => none
  | 0xC#4 => some (.movbLoadIdx (regField w 4) (regField w 8))
  | 0xD#4 => some (.movwLoadIdx (regField w 4) (regField w 8))
  | 0xE#4 => some (.movlLoadIdx (regField w 4) (regField w 8))
  | 0xF#4 => some (.macL (regField w 4) (regField w 8))
  | _ => none

/-- The rows whose top four bits are 0x1 (R130). -/
def decodeMajor1 (w : Half) : Option Instr :=
  some (.movlStoreDisp (regField w 4) (w.extractLsb' 0 4) (regField w 8))

/-- The rows whose top four bits are 0x2 (R130). -/
def decodeMajor2 (w : Half) : Option Instr :=
  match w.extractLsb' 0 4 with
  | 0x0#4 => some (.movbStore (regField w 4) (regField w 8))
  | 0x1#4 => some (.movwStore (regField w 4) (regField w 8))
  | 0x2#4 => some (.movlStore (regField w 4) (regField w 8))
  | 0x4#4 => some (.movbPush (regField w 4) (regField w 8))
  | 0x5#4 => some (.movwPush (regField w 4) (regField w 8))
  | 0x6#4 => some (.movlPush (regField w 4) (regField w 8))
  | 0x7#4 => some (.div0s (regField w 4) (regField w 8))
  | 0x8#4 => some (.tstReg (regField w 4) (regField w 8))
  | 0x9#4 => some (.andReg (regField w 4) (regField w 8))
  | 0xA#4 => some (.xorReg (regField w 4) (regField w 8))
  | 0xB#4 => some (.orReg (regField w 4) (regField w 8))
  | 0xC#4 => some (.cmpStr (regField w 4) (regField w 8))
  | 0xD#4 => some (.xtrct (regField w 4) (regField w 8))
  | 0xE#4 => some (.muluw (regField w 4) (regField w 8))
  | 0xF#4 => some (.mulsw (regField w 4) (regField w 8))
  | _ => none

/-- The rows whose top four bits are 0x3 (R130). -/
def decodeMajor3 (w : Half) : Option Instr :=
  match w.extractLsb' 0 4 with
  | 0x0#4 => some (.cmpEqReg (regField w 4) (regField w 8))
  | 0x2#4 => some (.cmpHs (regField w 4) (regField w 8))
  | 0x3#4 => some (.cmpGe (regField w 4) (regField w 8))
  | 0x4#4 => some (.div1 (regField w 4) (regField w 8))
  | 0x5#4 => some (.dmulul (regField w 4) (regField w 8))
  | 0x6#4 => some (.cmpHi (regField w 4) (regField w 8))
  | 0x7#4 => some (.cmpGt (regField w 4) (regField w 8))
  | 0x8#4 => some (.subReg (regField w 4) (regField w 8))
  | 0xA#4 => some (.subc (regField w 4) (regField w 8))
  | 0xB#4 => some (.subv (regField w 4) (regField w 8))
  | 0xC#4 => some (.addReg (regField w 4) (regField w 8))
  | 0xD#4 => some (.dmulsl (regField w 4) (regField w 8))
  | 0xE#4 => some (.addc (regField w 4) (regField w 8))
  | 0xF#4 => some (.addv (regField w 4) (regField w 8))
  | _ => none

/-- The rows whose top four bits are 0x4 (R130). -/
def decodeMajor4 (w : Half) : Option Instr :=
  match w.extractLsb' 0 4 with
  | 0x0#4 =>
    match w.extractLsb' 4 4 with
    | 0x0#4 => some (.shll (regField w 8))
    | 0x1#4 => some (.dt (regField w 8))
    | 0x2#4 => some (.shal (regField w 8))
    | _ => none
  | 0x1#4 =>
    match w.extractLsb' 4 4 with
    | 0x0#4 => some (.shlr (regField w 8))
    | 0x1#4 => some (.cmpPz (regField w 8))
    | 0x2#4 => some (.shar (regField w 8))
    | _ => none
  | 0x2#4 =>
    match w.extractLsb' 4 4 with
    | 0x0#4 => some (.stslMach (regField w 8))
    | 0x1#4 => some (.stslMacl (regField w 8))
    | 0x2#4 => some (.stslPr (regField w 8))
    | _ => none
  | 0x3#4 =>
    match w.extractLsb' 4 4 with
    | 0x0#4 => some (.stclSr (regField w 8))
    | 0x1#4 => some (.stclGbr (regField w 8))
    | 0x2#4 => some (.stclVbr (regField w 8))
    | _ => none
  | 0x4#4 =>
    match w.extractLsb' 4 4 with
    | 0x0#4 => some (.rotl (regField w 8))
    | 0x2#4 => some (.rotcl (regField w 8))
    | _ => none
  | 0x5#4 =>
    match w.extractLsb' 4 4 with
    | 0x0#4 => some (.rotr (regField w 8))
    | 0x1#4 => some (.cmpPl (regField w 8))
    | 0x2#4 => some (.rotcr (regField w 8))
    | _ => none
  | 0x6#4 =>
    match w.extractLsb' 4 4 with
    | 0x0#4 => some (.ldslMach (regField w 8))
    | 0x1#4 => some (.ldslMacl (regField w 8))
    | 0x2#4 => some (.ldslPr (regField w 8))
    | _ => none
  | 0x7#4 =>
    match w.extractLsb' 4 4 with
    | 0x0#4 => some (.ldclSr (regField w 8))
    | 0x1#4 => some (.ldclGbr (regField w 8))
    | 0x2#4 => some (.ldclVbr (regField w 8))
    | _ => none
  | 0x8#4 =>
    match w.extractLsb' 4 4 with
    | 0x0#4 => some (.shll2 (regField w 8))
    | 0x1#4 => some (.shll8 (regField w 8))
    | 0x2#4 => some (.shll16 (regField w 8))
    | _ => none
  | 0x9#4 =>
    match w.extractLsb' 4 4 with
    | 0x0#4 => some (.shlr2 (regField w 8))
    | 0x1#4 => some (.shlr8 (regField w 8))
    | 0x2#4 => some (.shlr16 (regField w 8))
    | _ => none
  | 0xA#4 =>
    match w.extractLsb' 4 4 with
    | 0x0#4 => some (.ldsMach (regField w 8))
    | 0x1#4 => some (.ldsMacl (regField w 8))
    | 0x2#4 => some (.ldsPr (regField w 8))
    | _ => none
  | 0xB#4 =>
    match w.extractLsb' 4 4 with
    | 0x0#4 => some (.jsr (regField w 8))
    | 0x1#4 => some (.tasb (regField w 8))
    | 0x2#4 => some (.jmp (regField w 8))
    | _ => none
  | 0xE#4 =>
    match w.extractLsb' 4 4 with
    | 0x0#4 => some (.ldcSr (regField w 8))
    | 0x1#4 => some (.ldcGbr (regField w 8))
    | 0x2#4 => some (.ldcVbr (regField w 8))
    | _ => none
  | 0xF#4 => some (.macW (regField w 4) (regField w 8))
  | _ => none

/-- The rows whose top four bits are 0x5 (R130). -/
def decodeMajor5 (w : Half) : Option Instr :=
  some (.movlLoadDisp (w.extractLsb' 0 4) (regField w 4) (regField w 8))

/-- The rows whose top four bits are 0x6 (R130). -/
def decodeMajor6 (w : Half) : Option Instr :=
  match w.extractLsb' 0 4 with
  | 0x0#4 => some (.movbLoad (regField w 4) (regField w 8))
  | 0x1#4 => some (.movwLoad (regField w 4) (regField w 8))
  | 0x2#4 => some (.movlLoad (regField w 4) (regField w 8))
  | 0x3#4 => some (.movReg (regField w 4) (regField w 8))
  | 0x4#4 => some (.movbPop (regField w 4) (regField w 8))
  | 0x5#4 => some (.movwPop (regField w 4) (regField w 8))
  | 0x6#4 => some (.movlPop (regField w 4) (regField w 8))
  | 0x7#4 => some (.notReg (regField w 4) (regField w 8))
  | 0x8#4 => some (.swapb (regField w 4) (regField w 8))
  | 0x9#4 => some (.swapw (regField w 4) (regField w 8))
  | 0xA#4 => some (.negc (regField w 4) (regField w 8))
  | 0xB#4 => some (.negReg (regField w 4) (regField w 8))
  | 0xC#4 => some (.extub (regField w 4) (regField w 8))
  | 0xD#4 => some (.extuw (regField w 4) (regField w 8))
  | 0xE#4 => some (.extsb (regField w 4) (regField w 8))
  | 0xF#4 => some (.extsw (regField w 4) (regField w 8))
  | _ => none

/-- The rows whose top four bits are 0x7 (R130). -/
def decodeMajor7 (w : Half) : Option Instr :=
  some (.addImm (w.extractLsb' 0 8) (regField w 8))

/-- The rows whose top four bits are 0x8 (R130). -/
def decodeMajor8 (w : Half) : Option Instr :=
  match w.extractLsb' 8 4 with
  | 0x0#4 => some (.movbStoreDisp (w.extractLsb' 0 4) (regField w 4))
  | 0x1#4 => some (.movwStoreDisp (w.extractLsb' 0 4) (regField w 4))
  | 0x4#4 => some (.movbLoadDisp (w.extractLsb' 0 4) (regField w 4))
  | 0x5#4 => some (.movwLoadDisp (w.extractLsb' 0 4) (regField w 4))
  | 0x8#4 => some (.cmpEqImm (w.extractLsb' 0 8))
  | 0x9#4 => some (.bt (w.extractLsb' 0 8))
  | 0xB#4 => some (.bf (w.extractLsb' 0 8))
  | 0xD#4 => some (.bts (w.extractLsb' 0 8))
  | 0xF#4 => some (.bfs (w.extractLsb' 0 8))
  | _ => none

/-- The rows whose top four bits are 0x9 (R130). -/
def decodeMajor9 (w : Half) : Option Instr :=
  some (.movwLoadPc (w.extractLsb' 0 8) (regField w 8))

/-- The rows whose top four bits are 0xA (R130). -/
def decodeMajorA (w : Half) : Option Instr :=
  some (.bra (w.extractLsb' 0 12))

/-- The rows whose top four bits are 0xB (R130). -/
def decodeMajorB (w : Half) : Option Instr :=
  some (.bsr (w.extractLsb' 0 12))

/-- The rows whose top four bits are 0xC (R130). -/
def decodeMajorC (w : Half) : Option Instr :=
  match w.extractLsb' 8 4 with
  | 0x0#4 => some (.movbStoreGbr (w.extractLsb' 0 8))
  | 0x1#4 => some (.movwStoreGbr (w.extractLsb' 0 8))
  | 0x2#4 => some (.movlStoreGbr (w.extractLsb' 0 8))
  | 0x3#4 => some (.trapa (w.extractLsb' 0 8))
  | 0x4#4 => some (.movbLoadGbr (w.extractLsb' 0 8))
  | 0x5#4 => some (.movwLoadGbr (w.extractLsb' 0 8))
  | 0x6#4 => some (.movlLoadGbr (w.extractLsb' 0 8))
  | 0x7#4 => some (.mova (w.extractLsb' 0 8))
  | 0x8#4 => some (.tstImm (w.extractLsb' 0 8))
  | 0x9#4 => some (.andImm (w.extractLsb' 0 8))
  | 0xA#4 => some (.xorImm (w.extractLsb' 0 8))
  | 0xB#4 => some (.orImm (w.extractLsb' 0 8))
  | 0xC#4 => some (.tstbGbr (w.extractLsb' 0 8))
  | 0xD#4 => some (.andbGbr (w.extractLsb' 0 8))
  | 0xE#4 => some (.xorbGbr (w.extractLsb' 0 8))
  | 0xF#4 => some (.orbGbr (w.extractLsb' 0 8))
  | _ => none

/-- The rows whose top four bits are 0xD (R130). -/
def decodeMajorD (w : Half) : Option Instr :=
  some (.movlLoadPc (w.extractLsb' 0 8) (regField w 8))

/-- The rows whose top four bits are 0xE (R130). -/
def decodeMajorE (w : Half) : Option Instr :=
  some (.movImm (w.extractLsb' 0 8) (regField w 8))

/-- The table lookup (R124): the one row that the word matches, none where it spells no instruction (R140). -/
def decodeWord (w : Half) : Option Instr :=
  match w.extractLsb' 12 4 with
  | 0x0#4 => decodeMajor0 w
  | 0x1#4 => decodeMajor1 w
  | 0x2#4 => decodeMajor2 w
  | 0x3#4 => decodeMajor3 w
  | 0x4#4 => decodeMajor4 w
  | 0x5#4 => decodeMajor5 w
  | 0x6#4 => decodeMajor6 w
  | 0x7#4 => decodeMajor7 w
  | 0x8#4 => decodeMajor8 w
  | 0x9#4 => decodeMajor9 w
  | 0xA#4 => decodeMajorA w
  | 0xB#4 => decodeMajorB w
  | 0xC#4 => decodeMajorC w
  | 0xD#4 => decodeMajorD w
  | 0xE#4 => decodeMajorE w
  | _ => none
/-- Why bytes are not an instruction. -/
inductive DecodeError
  /-- Fewer than two bytes are left. -/
  | truncated
  /-- The word matches no row of the table (R140). -/
  | badOpcode (word : Half)
deriving DecidableEq, Repr

/-- The first instruction of a sequence of bytes, most significant byte first (R83, R120), and the bytes after it. -/
def decode : List Byte → Except DecodeError (Instr × List Byte)
  | hi :: lo :: rest =>
    match decodeWord (hi ++ lo) with
    | some i => .ok (i, rest)
    | none   => .error (.badOpcode (hi ++ lo))
  | _ => .error .truncated

/-- The rows of R180: mask and match of the thirteen classes that must not stand in a delay slot. -/
def illegalInSlotRows : List (Half × Half) :=
  [ (0xF0FF, 0x0003), (0xF0FF, 0x0023), (0xFFFF, 0x000B), (0xFFFF, 0x002B), (0xF0FF, 0x400B), (0xF0FF, 0x402B),
    (0xFF00, 0x8900), (0xFF00, 0x8B00), (0xFF00, 0x8D00), (0xFF00, 0x8F00), (0xF000, 0xA000), (0xF000, 0xB000),
    (0xFF00, 0xC300) ]

/-- `IllegalInSlot(s)`: the disjunction over the rows (R180). -/
def illegalInSlotWord (w : Half) : Bool :=
  illegalInSlotRows.any fun row => w &&& row.1 == row.2

/-- Four opcode bits, a register in bits 11:8, and the low byte (formats `n`, `m`, `nd8`, `ni` of R122). -/
def wordR (op : BitVec 4) (r : Reg) (low : BitVec 8) : Half :=
  op ++ (BitVec.ofFin r : BitVec 4) ++ low

/-- Four opcode bits, `n` in bits 11:8, `m` in bits 7:4, the low four bits (formats `nm`, `nmd`). -/
def wordRR (op : BitVec 4) (n m : Reg) (low : BitVec 4) : Half :=
  op ++ (BitVec.ofFin n : BitVec 4) ++ (BitVec.ofFin m : BitVec 4) ++ low

/-- Eight opcode bits, a register in bits 7:4, a four-bit displacement (formats `md`, `nd4`). -/
def wordRD (op : BitVec 8) (r : Reg) (disp : BitVec 4) : Half :=
  op ++ (BitVec.ofFin r : BitVec 4) ++ disp

/-- Eight opcode bits and an eight-bit field (formats `d8`, `i8`). -/
def word8 (op low : BitVec 8) : Half := op ++ low

/-- Four opcode bits and a twelve-bit displacement (format `d12`). -/
def word12 (op : BitVec 4) (disp : BitVec 12) : Half := op ++ disp

/-- The word of an instruction, written from the encoding column of R130. -/
def encode : Instr → Half
  | .stcSr n => wordR 0x0#4 n 0x02#8
  | .bsrf m => wordR 0x0#4 m 0x03#8
  | .movbStoreIdx m n => wordRR 0x0#4 n m 0x4#4
  | .movwStoreIdx m n => wordRR 0x0#4 n m 0x5#4
  | .movlStoreIdx m n => wordRR 0x0#4 n m 0x6#4
  | .mull m n => wordRR 0x0#4 n m 0x7#4
  | .clrt => 0x0008#16
  | .nop => 0x0009#16
  | .stsMach n => wordR 0x0#4 n 0x0A#8
  | .rts => 0x000B#16
  | .movbLoadIdx m n => wordRR 0x0#4 n m 0xC#4
  | .movwLoadIdx m n => wordRR 0x0#4 n m 0xD#4
  | .movlLoadIdx m n => wordRR 0x0#4 n m 0xE#4
  | .macL m n => wordRR 0x0#4 n m 0xF#4
  | .stcGbr n => wordR 0x0#4 n 0x12#8
  | .sett => 0x0018#16
  | .div0u => 0x0019#16
  | .stsMacl n => wordR 0x0#4 n 0x1A#8
  | .sleep => 0x001B#16
  | .stcVbr n => wordR 0x0#4 n 0x22#8
  | .braf m => wordR 0x0#4 m 0x23#8
  | .clrmac => 0x0028#16
  | .movt n => wordR 0x0#4 n 0x29#8
  | .stsPr n => wordR 0x0#4 n 0x2A#8
  | .rte => 0x002B#16
  | .movlStoreDisp m disp n => wordRR 0x1#4 n m disp
  | .movbStore m n => wordRR 0x2#4 n m 0x0#4
  | .movwStore m n => wordRR 0x2#4 n m 0x1#4
  | .movlStore m n => wordRR 0x2#4 n m 0x2#4
  | .movbPush m n => wordRR 0x2#4 n m 0x4#4
  | .movwPush m n => wordRR 0x2#4 n m 0x5#4
  | .movlPush m n => wordRR 0x2#4 n m 0x6#4
  | .div0s m n => wordRR 0x2#4 n m 0x7#4
  | .tstReg m n => wordRR 0x2#4 n m 0x8#4
  | .andReg m n => wordRR 0x2#4 n m 0x9#4
  | .xorReg m n => wordRR 0x2#4 n m 0xA#4
  | .orReg m n => wordRR 0x2#4 n m 0xB#4
  | .cmpStr m n => wordRR 0x2#4 n m 0xC#4
  | .xtrct m n => wordRR 0x2#4 n m 0xD#4
  | .muluw m n => wordRR 0x2#4 n m 0xE#4
  | .mulsw m n => wordRR 0x2#4 n m 0xF#4
  | .cmpEqReg m n => wordRR 0x3#4 n m 0x0#4
  | .cmpHs m n => wordRR 0x3#4 n m 0x2#4
  | .cmpGe m n => wordRR 0x3#4 n m 0x3#4
  | .div1 m n => wordRR 0x3#4 n m 0x4#4
  | .dmulul m n => wordRR 0x3#4 n m 0x5#4
  | .cmpHi m n => wordRR 0x3#4 n m 0x6#4
  | .cmpGt m n => wordRR 0x3#4 n m 0x7#4
  | .subReg m n => wordRR 0x3#4 n m 0x8#4
  | .subc m n => wordRR 0x3#4 n m 0xA#4
  | .subv m n => wordRR 0x3#4 n m 0xB#4
  | .addReg m n => wordRR 0x3#4 n m 0xC#4
  | .dmulsl m n => wordRR 0x3#4 n m 0xD#4
  | .addc m n => wordRR 0x3#4 n m 0xE#4
  | .addv m n => wordRR 0x3#4 n m 0xF#4
  | .shll n => wordR 0x4#4 n 0x00#8
  | .shlr n => wordR 0x4#4 n 0x01#8
  | .stslMach n => wordR 0x4#4 n 0x02#8
  | .stclSr n => wordR 0x4#4 n 0x03#8
  | .rotl n => wordR 0x4#4 n 0x04#8
  | .rotr n => wordR 0x4#4 n 0x05#8
  | .ldslMach m => wordR 0x4#4 m 0x06#8
  | .ldclSr m => wordR 0x4#4 m 0x07#8
  | .shll2 n => wordR 0x4#4 n 0x08#8
  | .shlr2 n => wordR 0x4#4 n 0x09#8
  | .ldsMach m => wordR 0x4#4 m 0x0A#8
  | .jsr m => wordR 0x4#4 m 0x0B#8
  | .ldcSr m => wordR 0x4#4 m 0x0E#8
  | .macW m n => wordRR 0x4#4 n m 0xF#4
  | .dt n => wordR 0x4#4 n 0x10#8
  | .cmpPz n => wordR 0x4#4 n 0x11#8
  | .stslMacl n => wordR 0x4#4 n 0x12#8
  | .stclGbr n => wordR 0x4#4 n 0x13#8
  | .cmpPl n => wordR 0x4#4 n 0x15#8
  | .ldslMacl m => wordR 0x4#4 m 0x16#8
  | .ldclGbr m => wordR 0x4#4 m 0x17#8
  | .shll8 n => wordR 0x4#4 n 0x18#8
  | .shlr8 n => wordR 0x4#4 n 0x19#8
  | .ldsMacl m => wordR 0x4#4 m 0x1A#8
  | .tasb n => wordR 0x4#4 n 0x1B#8
  | .ldcGbr m => wordR 0x4#4 m 0x1E#8
  | .shal n => wordR 0x4#4 n 0x20#8
  | .shar n => wordR 0x4#4 n 0x21#8
  | .stslPr n => wordR 0x4#4 n 0x22#8
  | .stclVbr n => wordR 0x4#4 n 0x23#8
  | .rotcl n => wordR 0x4#4 n 0x24#8
  | .rotcr n => wordR 0x4#4 n 0x25#8
  | .ldslPr m => wordR 0x4#4 m 0x26#8
  | .ldclVbr m => wordR 0x4#4 m 0x27#8
  | .shll16 n => wordR 0x4#4 n 0x28#8
  | .shlr16 n => wordR 0x4#4 n 0x29#8
  | .ldsPr m => wordR 0x4#4 m 0x2A#8
  | .jmp m => wordR 0x4#4 m 0x2B#8
  | .ldcVbr m => wordR 0x4#4 m 0x2E#8
  | .movlLoadDisp disp m n => wordRR 0x5#4 n m disp
  | .movbLoad m n => wordRR 0x6#4 n m 0x0#4
  | .movwLoad m n => wordRR 0x6#4 n m 0x1#4
  | .movlLoad m n => wordRR 0x6#4 n m 0x2#4
  | .movReg m n => wordRR 0x6#4 n m 0x3#4
  | .movbPop m n => wordRR 0x6#4 n m 0x4#4
  | .movwPop m n => wordRR 0x6#4 n m 0x5#4
  | .movlPop m n => wordRR 0x6#4 n m 0x6#4
  | .notReg m n => wordRR 0x6#4 n m 0x7#4
  | .swapb m n => wordRR 0x6#4 n m 0x8#4
  | .swapw m n => wordRR 0x6#4 n m 0x9#4
  | .negc m n => wordRR 0x6#4 n m 0xA#4
  | .negReg m n => wordRR 0x6#4 n m 0xB#4
  | .extub m n => wordRR 0x6#4 n m 0xC#4
  | .extuw m n => wordRR 0x6#4 n m 0xD#4
  | .extsb m n => wordRR 0x6#4 n m 0xE#4
  | .extsw m n => wordRR 0x6#4 n m 0xF#4
  | .addImm imm n => wordR 0x7#4 n imm
  | .movbStoreDisp disp n => wordRD 0x80#8 n disp
  | .movwStoreDisp disp n => wordRD 0x81#8 n disp
  | .movbLoadDisp disp m => wordRD 0x84#8 m disp
  | .movwLoadDisp disp m => wordRD 0x85#8 m disp
  | .cmpEqImm imm => word8 0x88#8 imm
  | .bt disp => word8 0x89#8 disp
  | .bf disp => word8 0x8B#8 disp
  | .bts disp => word8 0x8D#8 disp
  | .bfs disp => word8 0x8F#8 disp
  | .movwLoadPc disp n => wordR 0x9#4 n disp
  | .bra disp => word12 0xA#4 disp
  | .bsr disp => word12 0xB#4 disp
  | .movbStoreGbr disp => word8 0xC0#8 disp
  | .movwStoreGbr disp => word8 0xC1#8 disp
  | .movlStoreGbr disp => word8 0xC2#8 disp
  | .trapa imm => word8 0xC3#8 imm
  | .movbLoadGbr disp => word8 0xC4#8 disp
  | .movwLoadGbr disp => word8 0xC5#8 disp
  | .movlLoadGbr disp => word8 0xC6#8 disp
  | .mova disp => word8 0xC7#8 disp
  | .tstImm imm => word8 0xC8#8 imm
  | .andImm imm => word8 0xC9#8 imm
  | .xorImm imm => word8 0xCA#8 imm
  | .orImm imm => word8 0xCB#8 imm
  | .tstbGbr imm => word8 0xCC#8 imm
  | .andbGbr imm => word8 0xCD#8 imm
  | .xorbGbr imm => word8 0xCE#8 imm
  | .orbGbr imm => word8 0xCF#8 imm
  | .movlLoadPc disp n => wordR 0xD#4 n disp
  | .movImm imm n => wordR 0xE#4 n imm

/-- The mask and the match of the instruction's row of spec/opcode_table.json (R63, R130). -/
def Instr.row : Instr → Half × Half
  | .stcSr _ => (0xF0FF, 0x0002)
  | .bsrf _ => (0xF0FF, 0x0003)
  | .movbStoreIdx _ _ => (0xF00F, 0x0004)
  | .movwStoreIdx _ _ => (0xF00F, 0x0005)
  | .movlStoreIdx _ _ => (0xF00F, 0x0006)
  | .mull _ _ => (0xF00F, 0x0007)
  | .clrt => (0xFFFF, 0x0008)
  | .nop => (0xFFFF, 0x0009)
  | .stsMach _ => (0xF0FF, 0x000A)
  | .rts => (0xFFFF, 0x000B)
  | .movbLoadIdx _ _ => (0xF00F, 0x000C)
  | .movwLoadIdx _ _ => (0xF00F, 0x000D)
  | .movlLoadIdx _ _ => (0xF00F, 0x000E)
  | .macL _ _ => (0xF00F, 0x000F)
  | .stcGbr _ => (0xF0FF, 0x0012)
  | .sett => (0xFFFF, 0x0018)
  | .div0u => (0xFFFF, 0x0019)
  | .stsMacl _ => (0xF0FF, 0x001A)
  | .sleep => (0xFFFF, 0x001B)
  | .stcVbr _ => (0xF0FF, 0x0022)
  | .braf _ => (0xF0FF, 0x0023)
  | .clrmac => (0xFFFF, 0x0028)
  | .movt _ => (0xF0FF, 0x0029)
  | .stsPr _ => (0xF0FF, 0x002A)
  | .rte => (0xFFFF, 0x002B)
  | .movlStoreDisp _ _ _ => (0xF000, 0x1000)
  | .movbStore _ _ => (0xF00F, 0x2000)
  | .movwStore _ _ => (0xF00F, 0x2001)
  | .movlStore _ _ => (0xF00F, 0x2002)
  | .movbPush _ _ => (0xF00F, 0x2004)
  | .movwPush _ _ => (0xF00F, 0x2005)
  | .movlPush _ _ => (0xF00F, 0x2006)
  | .div0s _ _ => (0xF00F, 0x2007)
  | .tstReg _ _ => (0xF00F, 0x2008)
  | .andReg _ _ => (0xF00F, 0x2009)
  | .xorReg _ _ => (0xF00F, 0x200A)
  | .orReg _ _ => (0xF00F, 0x200B)
  | .cmpStr _ _ => (0xF00F, 0x200C)
  | .xtrct _ _ => (0xF00F, 0x200D)
  | .muluw _ _ => (0xF00F, 0x200E)
  | .mulsw _ _ => (0xF00F, 0x200F)
  | .cmpEqReg _ _ => (0xF00F, 0x3000)
  | .cmpHs _ _ => (0xF00F, 0x3002)
  | .cmpGe _ _ => (0xF00F, 0x3003)
  | .div1 _ _ => (0xF00F, 0x3004)
  | .dmulul _ _ => (0xF00F, 0x3005)
  | .cmpHi _ _ => (0xF00F, 0x3006)
  | .cmpGt _ _ => (0xF00F, 0x3007)
  | .subReg _ _ => (0xF00F, 0x3008)
  | .subc _ _ => (0xF00F, 0x300A)
  | .subv _ _ => (0xF00F, 0x300B)
  | .addReg _ _ => (0xF00F, 0x300C)
  | .dmulsl _ _ => (0xF00F, 0x300D)
  | .addc _ _ => (0xF00F, 0x300E)
  | .addv _ _ => (0xF00F, 0x300F)
  | .shll _ => (0xF0FF, 0x4000)
  | .shlr _ => (0xF0FF, 0x4001)
  | .stslMach _ => (0xF0FF, 0x4002)
  | .stclSr _ => (0xF0FF, 0x4003)
  | .rotl _ => (0xF0FF, 0x4004)
  | .rotr _ => (0xF0FF, 0x4005)
  | .ldslMach _ => (0xF0FF, 0x4006)
  | .ldclSr _ => (0xF0FF, 0x4007)
  | .shll2 _ => (0xF0FF, 0x4008)
  | .shlr2 _ => (0xF0FF, 0x4009)
  | .ldsMach _ => (0xF0FF, 0x400A)
  | .jsr _ => (0xF0FF, 0x400B)
  | .ldcSr _ => (0xF0FF, 0x400E)
  | .macW _ _ => (0xF00F, 0x400F)
  | .dt _ => (0xF0FF, 0x4010)
  | .cmpPz _ => (0xF0FF, 0x4011)
  | .stslMacl _ => (0xF0FF, 0x4012)
  | .stclGbr _ => (0xF0FF, 0x4013)
  | .cmpPl _ => (0xF0FF, 0x4015)
  | .ldslMacl _ => (0xF0FF, 0x4016)
  | .ldclGbr _ => (0xF0FF, 0x4017)
  | .shll8 _ => (0xF0FF, 0x4018)
  | .shlr8 _ => (0xF0FF, 0x4019)
  | .ldsMacl _ => (0xF0FF, 0x401A)
  | .tasb _ => (0xF0FF, 0x401B)
  | .ldcGbr _ => (0xF0FF, 0x401E)
  | .shal _ => (0xF0FF, 0x4020)
  | .shar _ => (0xF0FF, 0x4021)
  | .stslPr _ => (0xF0FF, 0x4022)
  | .stclVbr _ => (0xF0FF, 0x4023)
  | .rotcl _ => (0xF0FF, 0x4024)
  | .rotcr _ => (0xF0FF, 0x4025)
  | .ldslPr _ => (0xF0FF, 0x4026)
  | .ldclVbr _ => (0xF0FF, 0x4027)
  | .shll16 _ => (0xF0FF, 0x4028)
  | .shlr16 _ => (0xF0FF, 0x4029)
  | .ldsPr _ => (0xF0FF, 0x402A)
  | .jmp _ => (0xF0FF, 0x402B)
  | .ldcVbr _ => (0xF0FF, 0x402E)
  | .movlLoadDisp _ _ _ => (0xF000, 0x5000)
  | .movbLoad _ _ => (0xF00F, 0x6000)
  | .movwLoad _ _ => (0xF00F, 0x6001)
  | .movlLoad _ _ => (0xF00F, 0x6002)
  | .movReg _ _ => (0xF00F, 0x6003)
  | .movbPop _ _ => (0xF00F, 0x6004)
  | .movwPop _ _ => (0xF00F, 0x6005)
  | .movlPop _ _ => (0xF00F, 0x6006)
  | .notReg _ _ => (0xF00F, 0x6007)
  | .swapb _ _ => (0xF00F, 0x6008)
  | .swapw _ _ => (0xF00F, 0x6009)
  | .negc _ _ => (0xF00F, 0x600A)
  | .negReg _ _ => (0xF00F, 0x600B)
  | .extub _ _ => (0xF00F, 0x600C)
  | .extuw _ _ => (0xF00F, 0x600D)
  | .extsb _ _ => (0xF00F, 0x600E)
  | .extsw _ _ => (0xF00F, 0x600F)
  | .addImm _ _ => (0xF000, 0x7000)
  | .movbStoreDisp _ _ => (0xFF00, 0x8000)
  | .movwStoreDisp _ _ => (0xFF00, 0x8100)
  | .movbLoadDisp _ _ => (0xFF00, 0x8400)
  | .movwLoadDisp _ _ => (0xFF00, 0x8500)
  | .cmpEqImm _ => (0xFF00, 0x8800)
  | .bt _ => (0xFF00, 0x8900)
  | .bf _ => (0xFF00, 0x8B00)
  | .bts _ => (0xFF00, 0x8D00)
  | .bfs _ => (0xFF00, 0x8F00)
  | .movwLoadPc _ _ => (0xF000, 0x9000)
  | .bra _ => (0xF000, 0xA000)
  | .bsr _ => (0xF000, 0xB000)
  | .movbStoreGbr _ => (0xFF00, 0xC000)
  | .movwStoreGbr _ => (0xFF00, 0xC100)
  | .movlStoreGbr _ => (0xFF00, 0xC200)
  | .trapa _ => (0xFF00, 0xC300)
  | .movbLoadGbr _ => (0xFF00, 0xC400)
  | .movwLoadGbr _ => (0xFF00, 0xC500)
  | .movlLoadGbr _ => (0xFF00, 0xC600)
  | .mova _ => (0xFF00, 0xC700)
  | .tstImm _ => (0xFF00, 0xC800)
  | .andImm _ => (0xFF00, 0xC900)
  | .xorImm _ => (0xFF00, 0xCA00)
  | .orImm _ => (0xFF00, 0xCB00)
  | .tstbGbr _ => (0xFF00, 0xCC00)
  | .andbGbr _ => (0xFF00, 0xCD00)
  | .xorbGbr _ => (0xFF00, 0xCE00)
  | .orbGbr _ => (0xFF00, 0xCF00)
  | .movlLoadPc _ _ => (0xF000, 0xD000)
  | .movImm _ _ => (0xF000, 0xE000)

/-- The instruction in the assembler's spelling, without its operands' values (R144). -/
def Instr.mnemonic : Instr → String
  | .stcSr _ => "STC SR,Rn"
  | .bsrf _ => "BSRF Rm"
  | .movbStoreIdx _ _ => "MOV.B Rm,@(R0,Rn)"
  | .movwStoreIdx _ _ => "MOV.W Rm,@(R0,Rn)"
  | .movlStoreIdx _ _ => "MOV.L Rm,@(R0,Rn)"
  | .mull _ _ => "MUL.L Rm,Rn"
  | .clrt => "CLRT"
  | .nop => "NOP"
  | .stsMach _ => "STS MACH,Rn"
  | .rts => "RTS"
  | .movbLoadIdx _ _ => "MOV.B @(R0,Rm),Rn"
  | .movwLoadIdx _ _ => "MOV.W @(R0,Rm),Rn"
  | .movlLoadIdx _ _ => "MOV.L @(R0,Rm),Rn"
  | .macL _ _ => "MAC.L @Rm+,@Rn+"
  | .stcGbr _ => "STC GBR,Rn"
  | .sett => "SETT"
  | .div0u => "DIV0U"
  | .stsMacl _ => "STS MACL,Rn"
  | .sleep => "SLEEP"
  | .stcVbr _ => "STC VBR,Rn"
  | .braf _ => "BRAF Rm"
  | .clrmac => "CLRMAC"
  | .movt _ => "MOVT Rn"
  | .stsPr _ => "STS PR,Rn"
  | .rte => "RTE"
  | .movlStoreDisp _ _ _ => "MOV.L Rm,@(disp,Rn)"
  | .movbStore _ _ => "MOV.B Rm,@Rn"
  | .movwStore _ _ => "MOV.W Rm,@Rn"
  | .movlStore _ _ => "MOV.L Rm,@Rn"
  | .movbPush _ _ => "MOV.B Rm,@-Rn"
  | .movwPush _ _ => "MOV.W Rm,@-Rn"
  | .movlPush _ _ => "MOV.L Rm,@-Rn"
  | .div0s _ _ => "DIV0S Rm,Rn"
  | .tstReg _ _ => "TST Rm,Rn"
  | .andReg _ _ => "AND Rm,Rn"
  | .xorReg _ _ => "XOR Rm,Rn"
  | .orReg _ _ => "OR Rm,Rn"
  | .cmpStr _ _ => "CMP/STR Rm,Rn"
  | .xtrct _ _ => "XTRCT Rm,Rn"
  | .muluw _ _ => "MULU.W Rm,Rn"
  | .mulsw _ _ => "MULS.W Rm,Rn"
  | .cmpEqReg _ _ => "CMP/EQ Rm,Rn"
  | .cmpHs _ _ => "CMP/HS Rm,Rn"
  | .cmpGe _ _ => "CMP/GE Rm,Rn"
  | .div1 _ _ => "DIV1 Rm,Rn"
  | .dmulul _ _ => "DMULU.L Rm,Rn"
  | .cmpHi _ _ => "CMP/HI Rm,Rn"
  | .cmpGt _ _ => "CMP/GT Rm,Rn"
  | .subReg _ _ => "SUB Rm,Rn"
  | .subc _ _ => "SUBC Rm,Rn"
  | .subv _ _ => "SUBV Rm,Rn"
  | .addReg _ _ => "ADD Rm,Rn"
  | .dmulsl _ _ => "DMULS.L Rm,Rn"
  | .addc _ _ => "ADDC Rm,Rn"
  | .addv _ _ => "ADDV Rm,Rn"
  | .shll _ => "SHLL Rn"
  | .shlr _ => "SHLR Rn"
  | .stslMach _ => "STS.L MACH,@-Rn"
  | .stclSr _ => "STC.L SR,@-Rn"
  | .rotl _ => "ROTL Rn"
  | .rotr _ => "ROTR Rn"
  | .ldslMach _ => "LDS.L @Rm+,MACH"
  | .ldclSr _ => "LDC.L @Rm+,SR"
  | .shll2 _ => "SHLL2 Rn"
  | .shlr2 _ => "SHLR2 Rn"
  | .ldsMach _ => "LDS Rm,MACH"
  | .jsr _ => "JSR @Rm"
  | .ldcSr _ => "LDC Rm,SR"
  | .macW _ _ => "MAC.W @Rm+,@Rn+"
  | .dt _ => "DT Rn"
  | .cmpPz _ => "CMP/PZ Rn"
  | .stslMacl _ => "STS.L MACL,@-Rn"
  | .stclGbr _ => "STC.L GBR,@-Rn"
  | .cmpPl _ => "CMP/PL Rn"
  | .ldslMacl _ => "LDS.L @Rm+,MACL"
  | .ldclGbr _ => "LDC.L @Rm+,GBR"
  | .shll8 _ => "SHLL8 Rn"
  | .shlr8 _ => "SHLR8 Rn"
  | .ldsMacl _ => "LDS Rm,MACL"
  | .tasb _ => "TAS.B @Rn"
  | .ldcGbr _ => "LDC Rm,GBR"
  | .shal _ => "SHAL Rn"
  | .shar _ => "SHAR Rn"
  | .stslPr _ => "STS.L PR,@-Rn"
  | .stclVbr _ => "STC.L VBR,@-Rn"
  | .rotcl _ => "ROTCL Rn"
  | .rotcr _ => "ROTCR Rn"
  | .ldslPr _ => "LDS.L @Rm+,PR"
  | .ldclVbr _ => "LDC.L @Rm+,VBR"
  | .shll16 _ => "SHLL16 Rn"
  | .shlr16 _ => "SHLR16 Rn"
  | .ldsPr _ => "LDS Rm,PR"
  | .jmp _ => "JMP @Rm"
  | .ldcVbr _ => "LDC Rm,VBR"
  | .movlLoadDisp _ _ _ => "MOV.L @(disp,Rm),Rn"
  | .movbLoad _ _ => "MOV.B @Rm,Rn"
  | .movwLoad _ _ => "MOV.W @Rm,Rn"
  | .movlLoad _ _ => "MOV.L @Rm,Rn"
  | .movReg _ _ => "MOV Rm,Rn"
  | .movbPop _ _ => "MOV.B @Rm+,Rn"
  | .movwPop _ _ => "MOV.W @Rm+,Rn"
  | .movlPop _ _ => "MOV.L @Rm+,Rn"
  | .notReg _ _ => "NOT Rm,Rn"
  | .swapb _ _ => "SWAP.B Rm,Rn"
  | .swapw _ _ => "SWAP.W Rm,Rn"
  | .negc _ _ => "NEGC Rm,Rn"
  | .negReg _ _ => "NEG Rm,Rn"
  | .extub _ _ => "EXTU.B Rm,Rn"
  | .extuw _ _ => "EXTU.W Rm,Rn"
  | .extsb _ _ => "EXTS.B Rm,Rn"
  | .extsw _ _ => "EXTS.W Rm,Rn"
  | .addImm _ _ => "ADD #imm,Rn"
  | .movbStoreDisp _ _ => "MOV.B R0,@(disp,Rn)"
  | .movwStoreDisp _ _ => "MOV.W R0,@(disp,Rn)"
  | .movbLoadDisp _ _ => "MOV.B @(disp,Rm),R0"
  | .movwLoadDisp _ _ => "MOV.W @(disp,Rm),R0"
  | .cmpEqImm _ => "CMP/EQ #imm,R0"
  | .bt _ => "BT disp"
  | .bf _ => "BF disp"
  | .bts _ => "BT/S disp"
  | .bfs _ => "BF/S disp"
  | .movwLoadPc _ _ => "MOV.W @(disp,PC),Rn"
  | .bra _ => "BRA disp"
  | .bsr _ => "BSR disp"
  | .movbStoreGbr _ => "MOV.B R0,@(disp,GBR)"
  | .movwStoreGbr _ => "MOV.W R0,@(disp,GBR)"
  | .movlStoreGbr _ => "MOV.L R0,@(disp,GBR)"
  | .trapa _ => "TRAPA #imm"
  | .movbLoadGbr _ => "MOV.B @(disp,GBR),R0"
  | .movwLoadGbr _ => "MOV.W @(disp,GBR),R0"
  | .movlLoadGbr _ => "MOV.L @(disp,GBR),R0"
  | .mova _ => "MOVA @(disp,PC),R0"
  | .tstImm _ => "TST #imm,R0"
  | .andImm _ => "AND #imm,R0"
  | .xorImm _ => "XOR #imm,R0"
  | .orImm _ => "OR #imm,R0"
  | .tstbGbr _ => "TST.B #imm,@(R0,GBR)"
  | .andbGbr _ => "AND.B #imm,@(R0,GBR)"
  | .xorbGbr _ => "XOR.B #imm,@(R0,GBR)"
  | .orbGbr _ => "OR.B #imm,@(R0,GBR)"
  | .movlLoadPc _ _ => "MOV.L @(disp,PC),Rn"
  | .movImm _ _ => "MOV #imm,Rn"

/-- The two bytes of an instruction, most significant first (R83). -/
def encodeBytes (i : Instr) : List Byte :=
  [(encode i).extractLsb' 8 8, (encode i).extractLsb' 0 8]

/-- The host's question: the instruction the decoder reads where the table's bits are `w`. An SH2 instruction is one
16-bit word; bits above `nbits` are 0. The word is laid out as the machine stores it and given to `decode`. -/
def decodeTableWord (nbits w : Nat) : Option Instr :=
  let word : Half := BitVec.ofNat 16 (w % 2 ^ nbits)
  match decode [word.extractLsb' 8 8, word.extractLsb' 0 8] with
  | .ok (i, _) => some i
  | .error _   => none

end Sys2Proof
end

