-- ==== Sys2Proof/Config.lean ====
section
/-!
DEFINITION. What an implementation fixes: the parameters of 00_scope.md R10 as one record of plain data, their
defaults, the region table `MEMMAP` (R96), and the free values, opaque constants of which nothing can be proved.
-/

namespace Sys2Proof

/-- The devices that R96 marks 'device, out of scope': their registers have no behaviour in the spec. -/
inductive ExternalDevice
  | smpc
  | minit
  | sinit
  | soundRegisters
  | vdp1Registers
  | vdp2Registers
deriving DecidableEq, Repr

/-- What answers an access to a region (R81, R96). -/
inductive RegionKind
  /-- Read-only storage: a write changes nothing (R87). -/
  | rom
  /-- Plain storage. -/
  | ram
  /-- A device whose behaviour the spec leaves out of scope. -/
  | external (d : ExternalDevice)
  /-- A-bus CS2: the CD block's registers at their local offsets (R57). -/
  | cdBlock
  /-- The SCU's registers (R45). -/
  | scu
deriving DecidableEq, Repr

/-- One row of the region dispatch table: the addresses `first` to `last` inclusive, after the mirror rule R97. -/
structure Region where
  first : Nat
  last  : Nat
  kind  : RegionKind
deriving DecidableEq, Repr

/-- The default `MEMMAP`, row by row as R96 lists it (the on-chip row stands apart: it is not mirrored, R97).
The three A-bus rows, which R96 marks 'platform', are taken as storage: DESIGN CHOICE, unsafe (log 8). -/
def defaultMemMap : List Region :=
  [ ⟨0x00000000, 0x000FFFFF, .rom⟩,
    ⟨0x00100000, 0x0010007F, .external .smpc⟩,
    ⟨0x00180000, 0x0018FFFF, .ram⟩,
    ⟨0x00200000, 0x002FFFFF, .ram⟩,
    ⟨0x01000000, 0x017FFFFF, .external .minit⟩,
    ⟨0x01800000, 0x01FFFFFF, .external .sinit⟩,
    ⟨0x02000000, 0x03FFFFFF, .ram⟩,
    ⟨0x04000000, 0x04FFFFFF, .ram⟩,
    ⟨0x05000000, 0x057FFFFF, .ram⟩,
    ⟨0x05800000, 0x058FFFFF, .cdBlock⟩,
    ⟨0x05A00000, 0x05AFFFFF, .ram⟩,
    ⟨0x05B00000, 0x05B00EE3, .external .soundRegisters⟩,
    ⟨0x05C00000, 0x05C7FFFF, .ram⟩,
    ⟨0x05C80000, 0x05CBFFFF, .ram⟩,
    ⟨0x05D00000, 0x05D00017, .external .vdp1Registers⟩,
    ⟨0x05E00000, 0x05E7FFFF, .ram⟩,
    ⟨0x05F00000, 0x05F00FFF, .ram⟩,
    ⟨0x05F80000, 0x05F8011F, .external .vdp2Registers⟩,
    ⟨0x05FE0000, 0x05FE00CF, .scu⟩,
    ⟨0x06000000, 0x060FFFFF, .ram⟩ ]

/-- `SCU_WRITE_ADD_MODE` (R416, D21). -/
inductive WriteAddMode
  | sourceCompatible
  | corrected
deriving DecidableEq, Repr

/-- `SCU_RANGE_MODE` (R413, D19). -/
inductive RangeMode
  | sourceRanges
  | officialMap
deriving DecidableEq, Repr

/-- The drive's play modes (R61). -/
inductive PlayMode
  | standard
  | double
  | standby
deriving DecidableEq, Repr

/-- One natural number for each play mode. -/
structure PerPlayMode where
  standard : Nat
  double   : Nat
  standby  : Nat
deriving DecidableEq, Repr

/-- The entry of a table for one play mode. -/
def PerPlayMode.at (t : PerPlayMode) : PlayMode → Nat
  | .standard => t.standard
  | .double   => t.double
  | .standby  => t.standby

/-- `DMA_COUNT_BITS`: the width of the transfer-byte-number field at level 0, and at levels 1 and 2 (R47). A
configuration holds a number of 20 bits (R55), so no field is wider. -/
structure DmaCountBits where
  level0 : Fin 21
  higher : Fin 21
deriving DecidableEq, Repr

/-- The width at a level. -/
def DmaCountBits.at (b : DmaCountBits) (level : Fin 3) : Nat :=
  if level = 0 then b.level0 else b.higher

/-- `MACL_SAT`, the saturation function of `MAC.L` (R274, U27): the SH-2's clamp to 48 bits, or a function of which
nothing is known, `Config.maclSaturation`. -/
inductive MaclSat
  | clamp48
  | other
deriving DecidableEq, Repr

/-- `PCREL_IN_SLOT` (R185, D8): `fault` is its only value in the spec (U4). -/
inductive PcRelInSlot
  | fault
deriving DecidableEq, Repr

/-- `DISC`, the disc-access capability (R482), as what its three functions answer. No rule calls the first two; the
third is consulted through `CD_STATUS_RESET` alone (R480). -/
structure Disc where
  /-- `isCdInserted()`. -/
  isCdInserted : Bool
  /-- `readToc()`: the bytes of the table of contents, or false. -/
  readToc : Option (List Byte)
  /-- The bytes of the sectors that `readSector` can read, by frame address. -/
  sectors : List (Nat × List Byte)
deriving DecidableEq, Repr

/-- `readSector(fad, count)` (R482): the bytes of that many sectors from a frame address on. -/
def Disc.readSector (d : Disc) (fad count : Nat) : List Byte :=
  (List.range count).flatMap fun k => (d.sectors.lookup (fad + k)).getD []

/-- The drive status that R480 suggests for reset: `no_disc_inserted`, or `pause` with a disc. -/
def Disc.statusReset (d : Disc) : Byte := if d.isCdInserted then 0x01 else 0x07

/-- What a write of CR1 to CR4 does while CR4 has never been read, a point on which the spec's files disagree (log 12). -/
inductive CdEarlyCommand
  /-- The same as later: CR4 executes its command, CR1 to CR3 mark one as being written (R443, R450 to R453, S11). -/
  | executed
  /-- The register is stored; no command runs and `is_command_being_initialized` stays (U17, R564). -/
  | ignored
deriving DecidableEq, Repr

/-- The rows of R591's table: the instructions that have one cost. -/
inductive CycleRow
  /-- Every instruction not listed below. -/
  | simple
  /-- `MUL.L`, `DMULS.L`, `DMULU.L`. -/
  | multiply
  /-- `MAC.W`, `MAC.L`. -/
  | multiplyAccumulate
  /-- `AND.B`, `OR.B`, `XOR.B`, `TST.B`. -/
  | memoryLogic
  /-- `TAS.B`. -/
  | testAndSet
  /-- `LDC.L`. -/
  | loadControl
  /-- `STC.L`. -/
  | storeControl
  /-- `BT`, `BF`, taken. -/
  | branchTaken
  /-- `BT`, `BF`, not taken. -/
  | branchNotTaken
  /-- `BT/S`, `BF/S`, taken, without the slot. -/
  | slotBranchTaken
  /-- `BT/S`, `BF/S`, not taken. -/
  | slotBranchNotTaken
  /-- `BRA`, `BSR`, `BRAF`, `BSRF`, `JMP`, `JSR`, `RTS`, without the slot. -/
  | jump
  /-- `RTE`, without the slot. -/
  | returnException
  /-- `TRAPA`. -/
  | trap
  /-- `SLEEP`. -/
  | sleep
deriving DecidableEq, Repr

/-- `CYCLES[op]` (R591): a number for each row of the table. -/
structure CycleTable where
  simple             : Nat
  multiply           : Nat
  multiplyAccumulate : Nat
  memoryLogic        : Nat
  testAndSet         : Nat
  loadControl        : Nat
  storeControl       : Nat
  branchTaken        : Nat
  branchNotTaken     : Nat
  slotBranchTaken    : Nat
  slotBranchNotTaken : Nat
  jump               : Nat
  returnException    : Nat
  trap               : Nat
  sleep              : Nat
deriving DecidableEq, Repr

/-- The cost of a row. -/
def CycleTable.at (t : CycleTable) : CycleRow → Nat
  | .simple             => t.simple
  | .multiply           => t.multiply
  | .multiplyAccumulate => t.multiplyAccumulate
  | .memoryLogic        => t.memoryLogic
  | .testAndSet         => t.testAndSet
  | .loadControl        => t.loadControl
  | .storeControl       => t.storeControl
  | .branchTaken        => t.branchTaken
  | .branchNotTaken     => t.branchNotTaken
  | .slotBranchTaken    => t.slotBranchTaken
  | .slotBranchNotTaken => t.slotBranchNotTaken
  | .jump               => t.jump
  | .returnException    => t.returnException
  | .trap               => t.trap
  | .sleep              => t.sleep

/-- The table of R591. -/
def CycleTable.default : CycleTable where
  simple             := 1
  multiply           := 2
  multiplyAccumulate := 3
  memoryLogic        := 3
  testAndSet         := 4
  loadControl        := 3
  storeControl       := 2
  branchTaken        := 3
  branchNotTaken     := 1
  slotBranchTaken    := 2
  slotBranchNotTaken := 1
  jump               := 2
  returnException    := 4
  trap               := 8
  sleep              := 3

/-- The parameters of R10, each a field but those that R10 calls fixed (XLEN, ILEN, NREG, ENDIAN) and `CPU_ID`, which
is the CPU whose step it is. A machine holds one such record for ever: no step writes it (log 25). -/
structure Params where
  /-- `MEMMAP` (R81, R96). -/
  memMap : List Region
  /-- `SCU_WRITE_ADD_MODE` (R416). -/
  writeAddMode : WriteAddMode
  /-- `SCU_RANGE_MODE` (R413). -/
  rangeMode : RangeMode
  /-- `CD_BASE`, as a physical address (R57). -/
  cdBase : Nat
  /-- `CD_PERIOD[mode]` (R446): what `calculateCyclesNumber` answers for each mode's duration. -/
  cdPeriod : PerPlayMode
  /-- `CD_MAXCMD[mode]` (R446). -/
  cdMaxCommands : PerPlayMode
  /-- `CD_PLAYMODE_RESET` (R445). -/
  cdPlayModeReset : PlayMode
  /-- `CD_STATUS_RESET` (R480). -/
  cdStatusReset : Byte
  /-- `CD_REPORT.b1` (R454). -/
  cdReportB1 : Byte
  /-- `CD_REPORT.w2` (R454). -/
  cdReportW2 : Half
  /-- `CD_REPORT.w3` (R454). -/
  cdReportW3 : Half
  /-- `CD_REPORT.w4` (R454). -/
  cdReportW4 : Half
  /-- `CD_HWINFO.w2` (R462). -/
  cdHwInfoW2 : Half
  /-- `CD_HWINFO.w3` (R462). -/
  cdHwInfoW3 : Half
  /-- `CD_HWINFO.w4` (R462). -/
  cdHwInfoW4 : Half
  /-- `CD_AUTH_STATUS` (R466). -/
  cdAuthStatus : Half
  /-- `CD_ABORT_SETS_EFLS` (R465). -/
  cdAbortSetsEfls : Bool
  /-- The model's own: which of the spec's two readings of a command before the handshake holds (log 12). -/
  cdEarlyCommand : CdEarlyCommand
  /-- `HIRQ_RESET` bits 10 to 2 (R445, R58); bits 1 and 0 are 1 always. -/
  hirqResetHigh : BitVec 9
  /-- `INT_ENTRY_CYCLES` (R534). -/
  intEntryCycles : Nat
  /-- `MACW_SAT_SETS_MACH_LSB` (R275). -/
  macwSatSetsMachLsb : Bool
  /-- `MACL_SAT` (R274). -/
  maclSat : MaclSat
  /-- `PCREL_IN_SLOT` (R185). -/
  pcRelInSlot : PcRelInSlot
  /-- `DMA_COUNT_BITS` (R47). -/
  dmaCountBits : DmaCountBits
  /-- `DMA_ZERO_COUNT` (R412), the same for every level. -/
  dmaZeroCount : Nat
  /-- `DMA_END_CODE` (R425). -/
  dmaEndCode : Word
  /-- `CYCLES[op]` (R591). -/
  cycles : CycleTable
  /-- `DISC` (R482). -/
  disc : Disc
deriving DecidableEq, Repr

/-- `HIRQ_RESET`: CMOK and DRDY set, bits 15:11 zero, the rest the parameter's (R58, R445). -/
def Params.hirqReset (p : Params) : Half :=
  0#5 ++ p.hirqResetHigh ++ 0b11#2

/-- `calculateCyclesNumber(CD_DURATION[mode])` (R446). The function is applied to the three durations and to nothing
else, so its three answers, `CD_PERIOD`, are all of it that the machine holds. -/
def Params.calculateCyclesNumber (p : Params) (mode : PlayMode) : Nat := p.cdPeriod.at mode

/-- The bits of D`L`C that `DMA_COUNT_BITS` implements (R47). -/
def Params.dmaCountMask (p : Params) (level : Fin 3) : Word := BitVec.ofNat 32 (2 ^ p.dmaCountBits.at level - 1)

/-- The drive without a disc. -/
def Disc.none : Disc := ⟨false, .none, []⟩

/-- The defaults of R10. `CD_PERIOD` and `CD_MAXCMD` have no default there: 1, the least value R446 allows, DESIGN
CHOICE, unsafe (log 4). -/
def Params.default : Params where
  memMap := defaultMemMap
  writeAddMode := .sourceCompatible
  rangeMode := .sourceRanges
  cdBase := 0x05800000
  cdPeriod := ⟨1, 1, 1⟩
  cdMaxCommands := ⟨1, 1, 1⟩
  cdPlayModeReset := .standby
  cdStatusReset := Disc.none.statusReset
  cdReportB1 := 0x00
  cdReportW2 := 0x4101
  cdReportW3 := 0x0100
  cdReportW4 := 0x0096
  cdHwInfoW2 := 0x0201
  cdHwInfoW3 := 0x0000
  cdHwInfoW4 := 0x0400
  cdAuthStatus := 0x0004
  cdAbortSetsEfls := true
  cdEarlyCommand := .executed
  hirqResetHigh := 0
  intEntryCycles := 8
  macwSatSetsMachLsb := true
  maclSat := .clamp48
  pcRelInSlot := .fault
  dmaCountBits := ⟨20, 12⟩
  dmaZeroCount := 0x100000
  dmaEndCode := 0x80000000
  cycles := CycleTable.default
  disc := Disc.none

/-- The free value of a 32-bit register that a reset called by the host leaves unspecified (R563, U6; log 7). -/
opaque Config.freeWord : Nat → Word

/-- `MACL_SAT` where it is not the 48-bit clamp: the saturated value of the exact sum (R274, U27; log 25). -/
opaque Config.maclSaturation : Int → Int

/-- The free value of `cycles_elapsed` after a step that halts (R592, U24; log 7). -/
opaque Config.freeCycles : Nat → Nat

end Sys2Proof
end

