-- ==== Sys2Proof/Machine/Flags.lean ====
section
/-!
DEFINITION. The results and flags of the arithmetic, logic and shift instructions, as functions of their operands. Sums
and differences are computed exactly, as natural numbers or integers, and narrowed at the end.
-/

namespace Sys2Proof.Machine

/-! ### Carry, borrow, overflow (R253, R254, R280, R282, R283) -/

/-- Sum with carry in: the 32-bit result and the carry out of bit 31 (R253). -/
def addWithCarry (a b : Word) (t : Bool) : Word × Bool :=
  let sum := a.toNat + b.toNat + t.toNat
  (BitVec.ofNat 32 sum, decide (2 ^ 32 ≤ sum))

/-- Difference with borrow in: the 32-bit result and the borrow (R282, R280). -/
def subWithBorrow (a b : Word) (t : Bool) : Word × Bool :=
  let d : Int := a.toNat - b.toNat - t.toNat
  (BitVec.ofInt 32 d, decide (d < 0))

/-- An exact integer is outside the signed 32-bit range. -/
def signedOverflow (v : Int) : Bool := decide (v < -2 ^ 31 ∨ 2 ^ 31 - 1 < v)

/-- Sum and its signed overflow (R254). -/
def addWithOverflow (a b : Word) : Word × Bool :=
  let sum := a.toInt + b.toInt
  (BitVec.ofInt 32 sum, signedOverflow sum)

/-- Difference and its signed overflow (R283). -/
def subWithOverflow (a b : Word) : Word × Bool :=
  let d := a.toInt - b.toInt
  (BitVec.ofInt 32 d, signedOverflow d)

/-! ### Comparison (R255 to R263) -/

/-- Some byte of the two words is equal in the same position (R263). -/
def someByteEqual (a b : Word) : Bool :=
  let x := a ^^^ b
  x.extractLsb' 24 8 == 0 || x.extractLsb' 16 8 == 0 || x.extractLsb' 8 8 == 0 || x.extractLsb' 0 8 == 0

/-! ### The division step (R264) -/

/-- The results of one division step: the register, the new `Q` and the new `T`. -/
structure DivStep where
  value : Word
  q : Bool
  t : Bool
deriving DecidableEq, Repr

/-- `DIV1` on the dividend `a` and the divisor `b`, with the old `Q`, `M` and `T` (R264). -/
def divStep (a b : Word) (oldQ m t : Bool) : DivStep :=
  let shifted : Word := (a <<< 1) ||| zext (BitVec.ofBool t)
  let value := if oldQ = m then shifted - b else shifted + b
  let carry := if oldQ = m then decide (shifted.toNat < b.toNat) else decide (2 ^ 32 ≤ shifted.toNat + b.toNat)
  let q := (a.msb ^^ m) ^^ carry
  { value := value, q := q, t := q == m }

/-! ### Multiply and accumulate (R274, R275) -/

/-- The signed range of R274's 48-bit saturation. -/
def clamp48 (v : Int) : Int := max (-2 ^ 47) (min (2 ^ 47 - 1) v)

/-- The saturation function of `MAC.L` that the parameter names (R274, U27). -/
def maclSaturate : MaclSat → Int → Int
  | .clamp48, v => clamp48 v
  | .other, v   => Config.maclSaturation v

/-- The accumulator `MACH ++ MACL` after `MAC.L` of two longwords (R274); `sat` is the parameter `MACL_SAT`. -/
def macLong (mach macl a b : Word) (saturate : Bool) (sat : MaclSat) : BitVec 64 :=
  let r := (mach ++ macl : BitVec 64).toInt + a.toInt * b.toInt
  BitVec.ofInt 64 (if saturate then maclSaturate sat r else r)

/-- The accumulator after `MAC.W` of two words (R275); `setsLsb` is the parameter `MACW_SAT_SETS_MACH_LSB`. -/
def macWord (mach macl : Word) (a b : Half) (saturate setsLsb : Bool) : BitVec 64 :=
  let p := a.toInt * b.toInt
  let overflowed : Word := if setsLsb then mach ||| 1 else mach
  if saturate then
    let r := macl.toInt + p
    if r > 2 ^ 31 - 1 then overflowed ++ 0x7FFFFFFF#32
    else if r < -2 ^ 31 then overflowed ++ 0x80000000#32
    else mach ++ BitVec.ofInt 32 r
  else BitVec.ofInt 64 ((mach ++ macl : BitVec 64).toInt + p)

/-! ### Shifts and rotates by one bit (R305 to R312): the result and the bit shifted out -/

/-- `SHLL` and `SHAL` (R309, R311). -/
def shiftLeft (v : Word) : Word × Bool := (v.extractLsb' 0 31 ++ 0#1, v.getLsbD 31)

/-- `SHLR` (R312). -/
def shiftRight (v : Word) : Word × Bool := (0#1 ++ v.extractLsb' 1 31, v.getLsbD 0)

/-- `SHAR` (R310). -/
def shiftRightArith (v : Word) : Word × Bool := (v.extractLsb' 31 1 ++ v.extractLsb' 1 31, v.getLsbD 0)

/-- `ROTL` (R305). -/
def rotateLeft (v : Word) : Word × Bool := (v.extractLsb' 0 31 ++ v.extractLsb' 31 1, v.getLsbD 31)

/-- `ROTR` (R306). -/
def rotateRight (v : Word) : Word × Bool := (v.extractLsb' 0 1 ++ v.extractLsb' 1 31, v.getLsbD 0)

/-- `ROTCL` (R307): the old T enters at the bottom. -/
def rotateLeftT (v : Word) (t : Bool) : Word × Bool := (v.extractLsb' 0 31 ++ BitVec.ofBool t, v.getLsbD 31)

/-- `ROTCR` (R308): the old T enters at the top. -/
def rotateRightT (v : Word) (t : Bool) : Word × Bool := (BitVec.ofBool t ++ v.extractLsb' 1 31, v.getLsbD 0)

/-! ### Rearrangement (R237 to R239) -/

/-- `SWAP.B` (R237). -/
def swapBytes (v : Word) : Word := v.extractLsb' 16 16 ++ v.extractLsb' 0 8 ++ v.extractLsb' 8 8

/-- `SWAP.W` (R238). -/
def swapWords (v : Word) : Word := v.extractLsb' 0 16 ++ v.extractLsb' 16 16

/-- `XTRCT` (R239): the middle of `m ++ n`. -/
def middleWords (m n : Word) : Word := m.extractLsb' 0 16 ++ n.extractLsb' 16 16

end Sys2Proof.Machine
end

