-- ==== Sys2Proof/Machine/BitField.lean ====
section
/-!
DEFINITION. The bit-field register primitive (40_bitfield_register.md): a register is a bit vector of its width, a
field is a range of its bits, and `get`, `set` and `reset` are the source's operations.
-/

namespace Sys2Proof.Machine

/-- `BitRange`: the bits `first` to `last` of a register of `n` bits, both inclusive. An ill-formed range has no term
(R150). -/
structure BitRange (n : Nat) where
  first : Nat
  last : Nat
  ordered : first ≤ last
  inside : last < n
deriving DecidableEq, Repr

/-- The field's width (R150). -/
def BitRange.width {n : Nat} (f : BitRange n) : Nat := f.last - f.first + 1

/-- `get(range)` (R151): the field's bits as a number of the field's width. -/
def BitRange.get {n : Nat} (f : BitRange n) (reg : BitVec n) : BitVec f.width :=
  reg.extractLsb' f.first f.width

/-- The mask `m` of R152: ones over the field, zeros elsewhere. -/
def BitRange.mask {n : Nat} (f : BitRange n) : BitVec n :=
  BitVec.ofNat n (2 ^ f.width - 1) <<< f.first

/-- `set(range, value)` (R152): bits of the value above the field's width are dropped. -/
def BitRange.set {n : Nat} (f : BitRange n) (reg value : BitVec n) : BitVec n :=
  (reg &&& ~~~f.mask) ||| ((value <<< f.first) &&& f.mask)

/-- `reset(range)` (R153). -/
def BitRange.reset {n : Nat} (f : BitRange n) (reg : BitVec n) : BitVec n :=
  f.set reg 0

/-- The field of a single bit. -/
def BitRange.bit {n : Nat} (i : Nat) (inside : i < n) : BitRange n :=
  ⟨i, i, Nat.le_refl i, inside⟩

end Sys2Proof.Machine
end

