-- ==== Sys2Proof/Machine/State.lean ====
section
/-!
DEFINITION. The state of the whole core as plain data: both CPUs, the SCU, the CD block, memory, the global status, and
the model's own fields (whose step is next, the host's calls to come, the free-value counter, the parameters). Then the
reasons a step can stop, and the state after reset (R561).
-/

namespace Sys2Proof.Machine

/-- `CPU_ID` (R4). -/
inductive CpuId
  | master
  | slave
deriving DecidableEq, Repr

/-- The status register `SR` (R26). Its reserved bits read 0 and are held nowhere (R27). -/
structure SR where
  /-- Bit 9, divide-step state. -/
  m : Bool
  /-- Bit 8, divide-step state. -/
  q : Bool
  /-- Bits 7:4, the interrupt mask level. -/
  i : BitVec 4
  /-- Bit 1, saturation enable. -/
  s : Bool
  /-- Bit 0, the condition flag. -/
  t : Bool
deriving DecidableEq, Repr

/-- The sources of the SCU's interrupts (R524). -/
inductive ScuSource
  | vBlankIn
  | vBlankOut
  | hBlankIn
  | timer0
  | timer1
  | dspEnd
  | soundRequest
  | systemManager
  | padInterrupt
  | level2DmaEnd
  | level1DmaEnd
  | level0DmaEnd
  | dmaIllegal
  | spriteDrawEnd
  /-- `external_00` to `external_15`. -/
  | external (n : Fin 16)
deriving DecidableEq, Repr

/-- An interrupt descriptor (R64): a row of R524's table, or one of the host's making (R548; log 27). Level 16 exists
only for the NMI (R524), so the host's own are of the levels 0 to 15. -/
inductive Interrupt
  | scu (src : ScuSource)
  | nmi
  | host (vector : Byte) (level : Fin 16)
deriving DecidableEq, Repr

/-- The interrupt-controller registers of one CPU, plain latches (R43). ICR bit 15 is not latched: it is the NMI
pin. -/
structure Intc where
  iprb    : Half
  vcra    : Half
  vcrb    : Half
  vcrc    : Half
  vcrd    : Half
  icr     : Half
  ipra    : Half
  vcrwdt  : Half
  vcrdiv  : Word
  vcrdma0 : Word
  vcrdma1 : Word
deriving DecidableEq, Repr

/-- Bytes of storage by address, as a list of pairs. Machine/Memory.lean says what its canonical form is and what an
unlisted address reads as. -/
structure Memory where
  cells : List Host.Cell
deriving DecidableEq, Repr

/-- One SH2 (R20 to R44). -/
structure Cpu where
  /-- R0 to R15 (R20). -/
  r : Vector Word 16
  /-- The address of the next instruction (R23). -/
  pc : Word
  sr : SR
  gbr : Word
  vbr : Word
  mach : Word
  macl : Word
  pr : Word
  /-- The pending-interrupt list, in order of arrival (R34). -/
  pending : List Interrupt
  /-- `is_level_interrupted[0..16]` (R35). -/
  levelInterrupted : Vector Bool 17
  /-- `current_interrupt` (R36). -/
  current : Option Interrupt
  /-- `cycles_elapsed` (R37). -/
  cyclesElapsed : Nat
  /-- `sleeping` (R39). -/
  sleeping : Bool
  /-- `por_slot_quirk` (R40). -/
  porSlotQuirk : Bool
  /-- The INTC registers (R43). -/
  intc : Intc
  /-- The level of the NMI pin, which ICR bit 15 follows (R43). -/
  nmiPin : Bool
  /-- The other on-chip addresses, as plain byte latches keyed by their offset from `0xFFFFFE00` (R42, R44). -/
  onChip : Memory
deriving DecidableEq, Repr

/-- The registers of one DMA channel (R45). -/
structure DmaChannel where
  /-- D`L`R (R46). -/
  readAddr : Word
  /-- D`L`W (R46). -/
  writeAddr : Word
  /-- D`L`C (R47). -/
  count : Word
  /-- D`L`AD (R49). -/
  addValue : Word
  /-- D`L`EN (R50). -/
  enable : Word
  /-- D`L`MD (R51). -/
  mode : Word
deriving DecidableEq, Repr

/-- The status of a DMA configuration (R55, R409). -/
inductive DmaStatus
  | finished
  | waitingStartFactor
  | queued
  | active
deriving DecidableEq, Repr

/-- `dma_mode` (R55). -/
inductive DmaMode
  | direct
  | indirect
deriving DecidableEq, Repr

/-- `read_address_update` and `write_address_update` (R55). -/
inductive AddressUpdate
  | hold
  | update
deriving DecidableEq, Repr

/-- A DMA configuration: the snapshot of one channel (R55, R404). -/
structure DmaConfig where
  level : Fin 3
  status : DmaStatus
  readAddress : Word
  writeAddress : Word
  transferByteNumber : BitVec 20
  /-- 0 or 4 bytes. -/
  readAddValue : Nat
  /-- The bytes that `WriteAdd` of R416 gives. -/
  writeAddValue : Nat
  dmaEnable : Bool
  dmaStart : Bool
  dmaMode : DmaMode
  readAddressUpdate : AddressUpdate
  writeAddressUpdate : AddressUpdate
  startingFactorSelect : BitVec 3
deriving DecidableEq, Repr

/-- The SCU (R45 to R56). -/
structure Scu where
  channels : Vector DmaChannel 3
  /-- Interrupt mask (R53). -/
  ims : Word
  /-- Interrupt status (R54). -/
  ist : Word
  /-- The registers of R45 marked 'no', plain latches, in the order of `ScuLatch.index`. -/
  latches : Vector Word 15
  /-- The DMA queue (R56). -/
  queue : List DmaConfig
deriving DecidableEq, Repr

/-- The CD block (R57 to R62). -/
structure Cd where
  hirq : Half
  hirqMask : Half
  cr1 : Half
  cr2 : Half
  cr3 : Half
  cr4 : Half
  /-- `is_command_being_initialized` (R61). -/
  commandBeingInitialized : Bool
  /-- `is_initialization_done` (R61). -/
  initializationDone : Bool
  /-- `executed_commands` (R61). -/
  executedCommands : Nat
  /-- `max_number_of_commands` (R61). -/
  maxCommands : Nat
  /-- `periodic_response_duration` (R61). -/
  periodicDuration : Nat
  /-- `elapsed_cycles`, a signed countdown (R61). -/
  elapsedCycles : Int
  /-- `cd_drive_status` (R61, R62). -/
  driveStatus : Byte
  /-- `cd_drive_play_mode` (R61). -/
  playMode : PlayMode
deriving DecidableEq, Repr

/-- The reasons of a halt (R501). -/
inductive HaltReason
  | badOpcode
  | illegalSlotInstruction
deriving DecidableEq, Repr

/-- What a halt records (R38, R501): the reason, the CPU, the word and its address. -/
structure Diagnostic where
  reason : HaltReason
  cpu : CpuId
  word : Half
  pc : Word
deriving DecidableEq, Repr

/-- The seven hardware start events of `sendStartFactor` (R51, R400, R406). -/
inductive StartEvent
  | vBlankIn
  | vBlankOut
  | hBlankIn
  | timer0
  | timer1
  | soundRequest
  | spriteDrawEnd
deriving DecidableEq, Repr

/-- What the host can do between steps (R8): one entry is one step of the model. -/
inductive HostAction
  /-- One instruction step of this CPU, which becomes the active one (R100, R548). -/
  | stepCpu (c : CpuId)
  /-- `run(cycles)` of the CD block (R475). -/
  | cdRun (cycles : Nat)
  /-- `sendStartFactor(factor)` (R406). -/
  | startFactor (e : StartEvent)
  /-- `ScuRaise(src)` (R521). -/
  | scuRaise (src : ScuSource)
  /-- `sendInterrupt(cpu, d)` (R520, R527, R548). -/
  | sendInterrupt (c : CpuId) (d : Interrupt)
  /-- The NMI pin of a CPU takes a level (R43). -/
  | nmiPin (c : CpuId) (level : Bool)
  /-- `reset()` of the SCU (R562). -/
  | resetScu
  /-- `reset()` of the CD block (R445). -/
  | resetCd
  /-- `powerOnReset()` of one SH2 (R563). -/
  | resetCpu (c : CpuId)
  /-- The power-on reset of the whole core (R560), the one event that leaves a stopped state (U30). -/
  | powerOn
deriving DecidableEq, Repr

/-- The whole core. -/
structure State where
  master : Cpu
  slave : Cpu
  /-- The model's own: the CPU that steps when the host's list is empty (log 6). -/
  active : CpuId
  scu : Scu
  cd : Cd
  /-- The storage of the address space, keyed by physical address (R80, R97). -/
  mem : Memory
  /-- `emulation_stopped` (R38). -/
  emulationStopped : Bool
  /-- The record of the halt that set it (R38, R501). -/
  diagnostic : Option Diagnostic
  /-- The model's own: the host's calls still to come, the next one first (log 6). -/
  hostInputs : List HostAction
  /-- The model's own: how many free values have been taken (log 7). -/
  draws : Nat
  /-- The parameters of R10; no step changes them (log 4). -/
  config : Params
deriving DecidableEq, Repr

/-- Why a step has no successor state. All but the last two are the spec's own faults (R501). -/
inductive Fault
  /-- `fault(misaligned_access)` (R90): raised by the memory operations for a 16-bit access at an odd address or a
  32-bit access at an address that is not a multiple of 4. Safe: the spec gives no successor either. -/
  | misalignedAccess (addr : Word) (bytes : Nat)
  /-- `fault(misaligned_fetch)` (R91): raised by the step and by `Slot` when the address of the instruction is odd.
  Safe. -/
  | misalignedFetch (pc : Word)
  /-- `fault(pc_relative_in_slot)` (R185): raised by `Slot`. Safe. -/
  | pcRelativeInSlot (addr : Word)
  /-- Raised by an indirect DMA that has read 2^30 descriptors with no end code: the `write32` never returns (R425,
  U11). Safe: stuck in the spec, stuck here. -/
  | dmaChainEndless (pointer : Word)
  /-- Raised when 2^31 delayed branches stand in each other's slots during the first step after reset (R183), which
  no memory of R96 can hold. Safe. -/
  | slotChainTooDeep (addr : Word)
deriving DecidableEq, Repr

/-- Why the model gives a step no meaning. -/
inductive Refusal
  /-- An instruction whose meaning is not written yet: raised by an arm of `exec`. Safe. -/
  | notModelled (mnemonic : String)
  /-- An access to a device register with a width that is not its own (R88, U9): raised by the memory operations.
  Safe. -/
  | deviceWidth (addr : Word) (bytes : Nat)
  /-- An access to a register of a device that R96 marks 'device, out of scope': raised by the memory operations.
  Safe. -/
  | externalDevice (d : ExternalDevice) (addr : Word)
  /-- A step after `emulation_stopped` is set (R160 item 1, U30): raised by the step. Safe. -/
  | emulationStopped
deriving DecidableEq, Repr

/-- The result of an operation that may stop the step. -/
abbrev Result (α : Type) := Host.Outcome α Fault Refusal

/-! ### The state after reset (R561) -/

/-- The INTC registers after reset: 0 (R43, R561). -/
def Intc.reset : Intc :=
  ⟨0, 0, 0, 0, 0, 0, 0, 0, 0, 0, 0⟩

/-- Memory with nothing listed. -/
def Memory.empty : Memory := ⟨[]⟩

/-- An SH2 after reset over a memory that lists nothing (R561, R563): `pc` and R15 hold vectors 0 and 1, which read 0.
R0 to R14, GBR, MACH, MACL, PR and T, S, Q, M, to which the spec gives no value, are 0: DESIGN CHOICE, unsafe
(log 1); so is the pin's level (log 2). -/
def Cpu.reset : Cpu where
  r := Vector.replicate 16 0
  pc := 0
  sr := ⟨false, false, 15, false, false⟩
  gbr := 0
  vbr := 0
  mach := 0
  macl := 0
  pr := 0
  pending := []
  levelInterrupted := Vector.replicate 17 false
  current := none
  cyclesElapsed := 0
  sleeping := false
  porSlotQuirk := true
  intc := Intc.reset
  nmiPin := false
  onChip := Memory.empty

/-- A DMA channel after reset: D`L`AD = 0x101, D`L`MD = 7, the rest 0 (R561, R562). -/
def DmaChannel.reset : DmaChannel where
  readAddr := 0
  writeAddr := 0
  count := 0
  addValue := 0x00000101
  enable := 0
  mode := 0x00000007

/-- The SCU after `reset()` (R562). -/
def Scu.reset : Scu where
  channels := Vector.replicate 3 DmaChannel.reset
  ims := 0x0000BFFF
  ist := 0
  latches := Vector.replicate 15 0
  queue := []

/-- The CD block after `reset()` (R445, R446), given the parameters. -/
def Cd.reset (p : Params) : Cd where
  hirq := p.hirqReset
  hirqMask := 0x0000
  cr1 := 0x0043
  cr2 := 0x4442
  cr3 := 0x4C4F
  cr4 := 0x434B
  commandBeingInitialized := false
  initializationDone := false
  executedCommands := 0
  maxCommands := p.cdMaxCommands.at p.cdPlayModeReset
  periodicDuration := p.calculateCyclesNumber p.cdPlayModeReset
  elapsedCycles := p.calculateCyclesNumber p.cdPlayModeReset
  driveStatus := p.cdStatusReset
  playMode := p.cdPlayModeReset

/-- The machine right after reset, with the default parameters and nothing listed in memory (R560, R561). That no halt
is recorded is the model's choice, for R561 has no row for the diagnostic (log 35). -/
def State.reset : State where
  master := Cpu.reset
  slave := Cpu.reset
  active := .master
  scu := Scu.reset
  cd := Cd.reset Params.default
  mem := Memory.empty
  emulationStopped := false
  diagnostic := none
  hostInputs := []
  draws := 0
  config := Params.default

end Sys2Proof.Machine
end

