-- ==== Sys2Proof/Machine/Memory.lean ====
section
/-!
DEFINITION. Storage as a list of (address, byte) pairs. Canonical form: addresses strictly rising, and no byte equal to
what an unlisted address reads as, so that equal memories are equal lists. Wider accesses are built from bytes here
alone, most significant byte first (R83 to R86).
-/

namespace Sys2Proof.Machine

/-- What a byte that nothing has written reads as: DESIGN CHOICE, unsafe (log 5). -/
def Memory.unlisted : Byte := 0

/-- The byte a list of cells holds at an address. -/
def readCells : List Host.Cell → Nat → Byte
  | [], _ => Memory.unlisted
  | (a, b) :: rest, addr => if a = addr then b else readCells rest addr

/-- The cells without those at an address. -/
def eraseCells : List Host.Cell → Nat → List Host.Cell
  | [], _ => []
  | (a, b) :: rest, addr => if a = addr then eraseCells rest addr else (a, b) :: eraseCells rest addr

/-- The cells with one more, put before the first cell of a greater address. -/
def insertCell : List Host.Cell → Nat → Byte → List Host.Cell
  | [], addr, v => [(addr, v)]
  | (a, b) :: rest, addr, v => if addr < a then (addr, v) :: (a, b) :: rest else (a, b) :: insertCell rest addr v

/-- The byte at an address. -/
def Memory.read (m : Memory) (addr : Nat) : Byte := readCells m.cells addr

/-- The memory with one byte written: what an address reads as when unlisted is not listed. -/
def Memory.write (m : Memory) (addr : Nat) (v : Byte) : Memory :=
  let others := eraseCells m.cells addr
  ⟨if v = Memory.unlisted then others else insertCell others addr v⟩

/-- Every address of the cells is greater than `bound`, they rise strictly, and no cell holds the unlisted byte. -/
def cellsAbove : Nat → List Host.Cell → Bool
  | _, [] => true
  | bound, (a, b) :: rest => decide (bound < a) && decide (b ≠ Memory.unlisted) && cellsAbove a rest

/-- The canonical form of a list of cells. -/
def canonicalCells : List Host.Cell → Bool
  | [] => true
  | (a, b) :: rest => decide (b ≠ Memory.unlisted) && cellsAbove a rest

/-- The memory is in canonical form. -/
def Memory.wf (m : Memory) : Bool := canonicalCells m.cells

/-- Two bytes from an address, most significant first (R85). -/
def Memory.read16 (m : Memory) (addr : Nat) : Half :=
  m.read addr ++ m.read (addr + 1)

/-- Four bytes from an address, most significant first (R85). -/
def Memory.read32 (m : Memory) (addr : Nat) : Word :=
  m.read addr ++ m.read (addr + 1) ++ m.read (addr + 2) ++ m.read (addr + 3)

/-- Two bytes stored from an address, most significant first (R86). -/
def Memory.write16 (m : Memory) (addr : Nat) (v : Half) : Memory :=
  (m.write addr (v.extractLsb' 8 8)).write (addr + 1) (v.extractLsb' 0 8)

/-- Four bytes stored from an address, most significant first (R86). -/
def Memory.write32 (m : Memory) (addr : Nat) (v : Word) : Memory :=
  (((m.write addr (v.extractLsb' 24 8)).write (addr + 1) (v.extractLsb' 16 8)).write (addr + 2)
    (v.extractLsb' 8 8)).write (addr + 3) (v.extractLsb' 0 8)

end Sys2Proof.Machine
end

