-- ==== Sys2Proof/Machine/Registers.lean ====
section
/-!
DEFINITION. Reading and writing the state's registers: the status register as a word (R26, R27), and the accessors of
the active CPU, through which every meaning reads and writes.
-/

namespace Sys2Proof.Machine

/-- SR as the 32-bit value of R26, reserved bits 0 (R27, R350 (c)). -/
def SR.toWord (sr : SR) : Word :=
  0#22 ++ BitVec.ofBool sr.m ++ BitVec.ofBool sr.q ++ sr.i ++ 0#2 ++ BitVec.ofBool sr.s ++ BitVec.ofBool sr.t

/-- A whole-value write of SR: the bits outside 0x3F3 are dropped (R27). -/
def SR.ofWord (w : Word) : SR where
  m := w.getLsbD 9
  q := w.getLsbD 8
  i := w.extractLsb' 4 4
  s := w.getLsbD 1
  t := w.getLsbD 0

/-- The CPU of this identity. -/
def State.cpuOf (s : State) : CpuId → Cpu
  | .master => s.master
  | .slave  => s.slave

/-- The state with the CPU of this identity changed. -/
def State.mapCpuOf (s : State) (c : CpuId) (f : Cpu → Cpu) : State :=
  { s with
    master := if c = .master then f s.master else s.master
    slave := if c = .slave then f s.slave else s.slave }

/-- The CPU whose step this is. -/
def State.cpu (s : State) : Cpu := s.cpuOf s.active

/-- The CPU that is not the active one. -/
def State.other (s : State) : Cpu :=
  match s.active with
  | .master => s.slave
  | .slave  => s.master

/-- The state with the active CPU changed. -/
def State.mapCpu (s : State) (f : Cpu → Cpu) : State := s.mapCpuOf s.active f

/-- `R[n]` of the active CPU. -/
def State.reg (s : State) (n : Reg) : Word := s.cpu.r.get n

/-- `R[n] <- v` on one CPU. All sixteen registers can be written (R20). -/
def Cpu.setReg (c : Cpu) (n : Reg) (v : Word) : Cpu := { c with r := c.r.set n v }

/-- `R[n] <- v`. -/
def State.setReg (s : State) (n : Reg) (v : Word) : State := s.mapCpu fun c => c.setReg n v

/-- `pc <- v`. -/
def State.setPc (s : State) (v : Word) : State := s.mapCpu fun c => { c with pc := v }

/-- `SR <- sr`, all five fields. -/
def State.setSr (s : State) (v : SR) : State := s.mapCpu fun c => { c with sr := v }

/-- `SR.T <- v`. -/
def State.setT (s : State) (v : Bool) : State := s.mapCpu fun c => { c with sr := { c.sr with t := v } }

/-- `GBR <- v`. -/
def State.setGbr (s : State) (v : Word) : State := s.mapCpu fun c => { c with gbr := v }

/-- `VBR <- v`. -/
def State.setVbr (s : State) (v : Word) : State := s.mapCpu fun c => { c with vbr := v }

/-- `MACH <- v`. -/
def State.setMach (s : State) (v : Word) : State := s.mapCpu fun c => { c with mach := v }

/-- `MACL <- v`. -/
def State.setMacl (s : State) (v : Word) : State := s.mapCpu fun c => { c with macl := v }

/-- `PR <- v`. -/
def State.setPr (s : State) (v : Word) : State := s.mapCpu fun c => { c with pr := v }

/-- `cycles_elapsed <- n`. -/
def State.setCycles (s : State) (n : Nat) : State := s.mapCpu fun c => { c with cyclesElapsed := n }

/-- The operations one after the other; a stop ends them. -/
def andThen {α β : Type} (x : Result α) (f : α → Result β) : Result β :=
  match x with
  | .next a    => f a
  | .fault r   => .fault r
  | .refused r => .refused r

end Sys2Proof.Machine
end

