-- ==== Sys2Proof/Machine/CdBlock.lean ====
section
/-!
DEFINITION. The CD block (48_cdrom.md): its register reads and writes, the command dispatcher with its throttle, the
six commands and the periodic tick. The block never touches memory (R440); each function maps its own state.
-/

namespace Sys2Proof.Machine

/-- The six registers (R57). -/
inductive CdReg
  | hirq
  | hirqMask
  | cr1
  | cr2
  | cr3
  | cr4
deriving DecidableEq, Repr

/-- The register at a local offset from `CD_BASE` (R57). -/
def CdReg.ofOffset (off : Nat) : Option CdReg :=
  if off = 0x90008 then some .hirq
  else if off = 0x9000C then some .hirqMask
  else if off = 0x90018 then some .cr1
  else if off = 0x9001C then some .cr2
  else if off = 0x90020 then some .cr3
  else if off = 0x90024 then some .cr4
  else none

/-- `HIRQ.CMOK` (R441). -/
def hirqCmok : BitRange 16 := .bit 0 (by decide)

/-- `HIRQ.EFLS` (R441). -/
def hirqEfls : BitRange 16 := .bit 9 (by decide)

/-- `HIRQ.SCDQ` (R441). -/
def hirqScdq : BitRange 16 := .bit 10 (by decide)

/-- `CommandRegister::command`, CR1[15:8] (R60, R453). -/
def crCommand : BitRange 16 := ⟨8, 15, by decide, by decide⟩

/-- `HIRQ.flag <- 1`. -/
def Cd.raise (c : Cd) (flag : BitRange 16) : Cd := { c with hirq := flag.set c.hirq 1 }

/-- `read16` of a register (R442): the value, and the state after it. Reading CR4 sets `is_initialization_done`
(R452); the other reads have no side effect. -/
def Cd.read16 (c : Cd) : CdReg → Half × Cd
  | .hirq     => (c.hirq, c)
  | .hirqMask => (c.hirqMask, c)
  | .cr1      => (c.cr1, c)
  | .cr2      => (c.cr2, c)
  | .cr3      => (c.cr3, c)
  | .cr4      => (c.cr4, { c with initializationDone := true })

/-- `CR1[15:8]` the drive status, `CR1[7:0]` as given, and the other three registers: the shape of every response. -/
def Cd.respond (c : Cd) (low : Byte) (w2 w3 w4 : Half) : Cd :=
  { c with cr1 := c.driveStatus ++ low, cr2 := w2, cr3 := w3, cr4 := w4 }

/-- `sendStatus()` (R454). -/
def Cd.sendStatus (c : Cd) (p : Params) : Cd :=
  c.respond p.cdReportB1 p.cdReportW2 p.cdReportW3 p.cdReportW4

/-- The implemented commands (R460). -/
inductive CdCommand
  | getStatus
  | getHardwareInfo
  | endDataTransfer
  | getCopyError
  | abortFile
  | getDeviceAuthenticationStatus
deriving DecidableEq, Repr

/-- The command of a code (R460); none for every other value of the byte. -/
def CdCommand.ofCode (code : Byte) : Option CdCommand :=
  if code = 0x00 then some .getStatus
  else if code = 0x01 then some .getHardwareInfo
  else if code = 0x06 then some .endDataTransfer
  else if code = 0x67 then some .getCopyError
  else if code = 0x75 then some .abortFile
  else if code = 0xE1 then some .getDeviceAuthenticationStatus
  else none

/-- The command handlers (R461 to R466): the response, CMOK, and for `abort_file` EFLS when the parameter says so. -/
def Cd.runCommand (c : Cd) (p : Params) : CdCommand → Cd
  | .getStatus       => (c.sendStatus p).raise hirqCmok
  | .getHardwareInfo => (c.respond 0x00 p.cdHwInfoW2 p.cdHwInfoW3 p.cdHwInfoW4).raise hirqCmok
  | .endDataTransfer => (c.respond 0xFF 0xFFFF 0x0000 0x0000).raise hirqCmok
  | .getCopyError    => (c.respond 0x00 0x0000 0x0000 0x0000).raise hirqCmok
  | .abortFile       =>
    let done := (c.sendStatus p).raise hirqCmok
    if p.cdAbortSetsEfls then done.raise hirqEfls else done
  | .getDeviceAuthenticationStatus => (c.respond 0x00 p.cdAuthStatus 0x0000 0x0000).raise hirqCmok

/-- The handler of the command in CR1, or nothing where the code is unimplemented (R453, R470). -/
def Cd.dispatch (c : Cd) (p : Params) : Cd :=
  match CdCommand.ofCode (crCommand.get c.cr1) with
  | some cmd => c.runCommand p cmd
  | none     => c

/-- One more command executed; past the limit CMOK is forcibly cleared (R471). -/
def Cd.throttle (c : Cd) : Cd :=
  let counted := { c with executedCommands := c.executedCommands + 1 }
  if counted.executedCommands > counted.maxCommands then
    { counted with hirq := hirqCmok.reset counted.hirq }
  else counted

/-- `executeCommand()` (R453). -/
def Cd.executeCommand (c : Cd) (p : Params) : Cd := (c.dispatch p).throttle

/-- The block takes commands: always in the reading of R443 and R450 to R453, and only after CR4 has been read in that
of U17 and R564. The parameter decides (log 12). -/
def Cd.takesCommands (c : Cd) (p : Params) : Bool := c.initializationDone || p.cdEarlyCommand == .executed

/-- `is_command_being_initialized <- true`, where the block takes commands. -/
def Cd.beginCommand (c : Cd) (p : Params) : Cd :=
  { c with commandBeingInitialized := c.commandBeingInitialized || c.takesCommands p }

/-- The trigger of a CR4 write (R443): the flag is cleared and the command executed, where the block takes commands. -/
def Cd.triggerCommand (c : Cd) (p : Params) : Cd :=
  if c.takesCommands p then Cd.executeCommand { c with commandBeingInitialized := false } p else c

/-- `write16` to a register (R443): each is stored, and the command registers begin or trigger a command. -/
def Cd.write16 (c : Cd) (p : Params) (reg : CdReg) (data : Half) : Cd :=
  match reg with
  | .hirq     => { c with hirq := c.hirq &&& data }
  | .hirqMask => { c with hirqMask := data }
  | .cr1      => Cd.beginCommand { c with cr1 := data } p
  | .cr2      => Cd.beginCommand { c with cr2 := data } p
  | .cr3      => Cd.beginCommand { c with cr3 := data } p
  | .cr4      => Cd.triggerCommand { c with cr4 := data } p

/-- The periodic tick itself (R475): counter, CMOK, reload, and the status where no command is being written. -/
def Cd.tick (c : Cd) (p : Params) : Cd :=
  let reloaded := Cd.raise { c with executedCommands := 0, elapsedCycles := c.periodicDuration } hirqCmok
  if reloaded.commandBeingInitialized then reloaded
  else (reloaded.sendStatus p).raise hirqScdq

/-- `run(cycles)` (R475). -/
def Cd.run (c : Cd) (p : Params) (cycles : Nat) : Cd :=
  if c.initializationDone then
    let left := { c with elapsedCycles := c.elapsedCycles - cycles }
    if left.elapsedCycles ≤ 0 then left.tick p else left
  else c

end Sys2Proof.Machine
end

