-- ==== Sys2Proof/Machine/ScuRegs.lean ====
section
/-!
DEFINITION. The SCU's registers (10_state.md R45 to R54): which register stands at which offset, what it keeps of a
value written to it, and its reads and writes. The DMA that an enable write starts is in Machine/ScuDma.lean.
-/

namespace Sys2Proof.Machine

/-- The registers of R45 marked 'no': plain latches. -/
inductive ScuLatch
  | dstp
  | dsta
  | ppaf
  | ppd
  | pda
  | pdd
  | t0c
  | t1s
  | t1md
  | aiack
  | asr0
  | asr1
  | aref
  | rsel
  | ver
deriving DecidableEq, Repr

/-- The latch's place in `Scu.latches`. -/
def ScuLatch.index : ScuLatch → Fin 15
  | .dstp => 0
  | .dsta => 1
  | .ppaf => 2
  | .ppd => 3
  | .pda => 4
  | .pdd => 5
  | .t0c => 6
  | .t1s => 7
  | .t1md => 8
  | .aiack => 9
  | .asr0 => 10
  | .asr1 => 11
  | .aref => 12
  | .rsel => 13
  | .ver => 14

/-- The six registers of a DMA channel, in the order of their offsets (R45). -/
inductive ChannelReg
  | readAddr
  | writeAddr
  | count
  | addValue
  | enable
  | mode
deriving DecidableEq, Repr

/-- A register of the SCU. -/
inductive ScuReg
  | channel (level : Fin 3) (reg : ChannelReg)
  | ims
  | ist
  | latch (l : ScuLatch)
deriving DecidableEq, Repr

/-- The channel register at an offset inside a channel's block (R45). -/
def ChannelReg.ofOffset (off : Nat) : Option ChannelReg :=
  if off = 0x00 then some .readAddr
  else if off = 0x04 then some .writeAddr
  else if off = 0x08 then some .count
  else if off = 0x0C then some .addValue
  else if off = 0x10 then some .enable
  else if off = 0x14 then some .mode
  else none

/-- The latch at an offset (R45). -/
def ScuLatch.ofOffset (off : Nat) : Option ScuLatch :=
  if off = 0x60 then some .dstp
  else if off = 0x7C then some .dsta
  else if off = 0x80 then some .ppaf
  else if off = 0x84 then some .ppd
  else if off = 0x88 then some .pda
  else if off = 0x8C then some .pdd
  else if off = 0x90 then some .t0c
  else if off = 0x94 then some .t1s
  else if off = 0x98 then some .t1md
  else if off = 0xA8 then some .aiack
  else if off = 0xB0 then some .asr0
  else if off = 0xB4 then some .asr1
  else if off = 0xB8 then some .aref
  else if off = 0xC4 then some .rsel
  else if off = 0xC8 then some .ver
  else none

/-- The register at an offset from `0x25FE0000`; none where R401 says 'nothing'. -/
def ScuReg.ofOffset (off : Nat) : Option ScuReg :=
  if off < 0x20 then (ChannelReg.ofOffset off).map (.channel 0)
  else if off < 0x40 then (ChannelReg.ofOffset (off - 0x20)).map (.channel 1)
  else if off < 0x60 then (ChannelReg.ofOffset (off - 0x40)).map (.channel 2)
  else if off = 0xA0 then some .ims
  else if off = 0xA4 then some .ist
  else (ScuLatch.ofOffset off).map .latch

/-- The bits a channel register keeps of a written value (R401, R46 to R51): of the count, those of `DMA_COUNT_BITS`. -/
def ChannelReg.mask (p : Params) (level : Fin 3) : ChannelReg → Word
  | .readAddr  => 0x07FFFFFF
  | .writeAddr => 0x07FFFFFF
  | .count     => p.dmaCountMask level
  | .addValue  => 0x00000107
  | .enable    => 0x00000101
  | .mode      => 0x01010107

/-- A channel register's value. -/
def DmaChannel.get (c : DmaChannel) : ChannelReg → Word
  | .readAddr  => c.readAddr
  | .writeAddr => c.writeAddr
  | .count     => c.count
  | .addValue  => c.addValue
  | .enable    => c.enable
  | .mode      => c.mode

/-- A channel with one register replaced. -/
def DmaChannel.put (c : DmaChannel) (reg : ChannelReg) (v : Word) : DmaChannel :=
  match reg with
  | .readAddr  => { c with readAddr := v }
  | .writeAddr => { c with writeAddr := v }
  | .count     => { c with count := v }
  | .addValue  => { c with addValue := v }
  | .enable    => { c with enable := v }
  | .mode      => { c with mode := v }

/-- The channel of a level. -/
def Scu.channel (u : Scu) (level : Fin 3) : DmaChannel := u.channels.get level

/-- The SCU with one channel's register replaced by the bits of a value that the register implements. -/
def Scu.putChannel (u : Scu) (p : Params) (level : Fin 3) (reg : ChannelReg) (v : Word) : Scu :=
  { u with channels := u.channels.set level ((u.channel level).put reg (v &&& reg.mask p level)) }

/-- The value of a register, which reading does not change (R403, R523). -/
def Scu.read (u : Scu) : ScuReg → Word
  | .channel level reg => (u.channel level).get reg
  | .ims     => u.ims
  | .ist     => u.ist
  | .latch l => u.latches.get l.index

/-- The register part of `write32` (R401): masks, the AND of IST (R54), plain latches. -/
def Scu.write (u : Scu) (p : Params) (reg : ScuReg) (data : Word) : Scu :=
  match reg with
  | .channel level r => u.putChannel p level r data
  | .ims     => { u with ims := data &&& 0x0000BFFF }
  | .ist     => { u with ist := u.ist &&& data }
  | .latch l => { u with latches := u.latches.set l.index data }

end Sys2Proof.Machine
end

