-- ==== Sys2Proof/Machine/Bus.lean ====
section
/-!
DEFINITION. The memory bus (20_memory.md): where an address leads (R81, R95 to R97), the reads of every width, and the
byte write. The 16- and 32-bit writes, which can run a CD command or a DMA, are in Machine/Ops.lean.
-/

namespace Sys2Proof.Machine

/-- Who makes an access. The on-chip block belongs to the CPU that makes the access (R42); the SCU has none. -/
inductive BusMaster
  | cpu (c : CpuId)
  | scu
deriving DecidableEq, Repr

/-- Where an address leads. -/
inductive Place
  /-- A byte of storage, by its physical address. -/
  | storage (addr : Nat) (writable : Bool)
  /-- A register of a device that is out of scope. -/
  | external (d : ExternalDevice)
  /-- The CD block, at a local offset. -/
  | cdBlock (off : Nat)
  /-- The SCU, at an offset from its base. -/
  | scu (off : Nat)
  /-- The on-chip block, at an offset from `0xFFFFFE00`. -/
  | onChip (off : Nat)
  /-- No region (R87). -/
  | unmapped
deriving DecidableEq, Repr

/-- The row of the region table that contains a physical address (R81). -/
def findRegion (map : List Region) (addr : Nat) : Option Region :=
  map.find? fun r => r.first ≤ addr && addr ≤ r.last

/-- The place of a physical address. The CD block's local offsets count from `CD_BASE` (R57); below it there is no
register, and 0 stands for every such place (log 22). -/
def physicalPlace (p : Params) (addr : Nat) : Place :=
  match findRegion p.memMap addr with
  | none   => .unmapped
  | some r =>
    match r.kind with
    | .rom        => .storage addr false
    | .ram        => .storage addr true
    | .external d => .external d
    | .cdBlock    => .cdBlock (addr - p.cdBase)
    | .scu        => .scu (addr - r.first)

/-- The place of an address (R97): the spaces 000 and 001 alias the low 27 bits, 111 holds the on-chip registers, the
other spaces are unmapped. -/
def resolve (p : Params) (addr : Word) : Place :=
  let space := addr.extractLsb' 29 3
  if space = 0#3 ∨ space = 1#3 then physicalPlace p (addr &&& 0x07FFFFFF).toNat
  else if 0xFFFFFE00 ≤ addr.toNat then .onChip (addr.toNat - 0xFFFFFE00)
  else .unmapped

/-- The place of an address in this machine. -/
def State.place (s : State) (addr : Word) : Place := resolve s.config addr

/-- An access of some bytes at a local offset touches a register of the CD block (R57). -/
def cdTouched (off bytes : Nat) : Bool :=
  [0x90008, 0x9000C, 0x90018, 0x9001C, 0x90020, 0x90024].any fun reg => off < reg + 2 && reg < off + bytes

/-! ### The on-chip block (R42 to R44) -/

/-- The registers of R43's table. -/
inductive IntcReg
  | iprb
  | vcra
  | vcrb
  | vcrc
  | vcrd
  | icr
  | ipra
  | vcrwdt
  | vcrdiv
  | vcrdma0
  | vcrdma1
deriving DecidableEq, Repr

/-- The registers of R43's table. -/
def intcTable : List IntcReg :=
  [.iprb, .vcra, .vcrb, .vcrc, .vcrd, .icr, .ipra, .vcrwdt, .vcrdiv, .vcrdma0, .vcrdma1]

/-- The register's offset from `0xFFFFFE00` (R43). -/
def IntcReg.offset : IntcReg → Nat
  | .iprb    => 0x060
  | .vcra    => 0x062
  | .vcrb    => 0x064
  | .vcrc    => 0x066
  | .vcrd    => 0x068
  | .icr     => 0x0E0
  | .ipra    => 0x0E2
  | .vcrwdt  => 0x0E4
  | .vcrdiv  => 0x10C
  | .vcrdma0 => 0x1A0
  | .vcrdma1 => 0x1A8

/-- The register's width in bytes (R43). -/
def IntcReg.bytes : IntcReg → Nat
  | .vcrdiv | .vcrdma0 | .vcrdma1 => 4
  | _ => 2

/-- Where an access to the on-chip block leads: a register at its own width, a register at another width (which R88
leaves without meaning), or plain latches (R44). -/
inductive OnChipPlace
  | register (reg : IntcReg)
  | otherWidth
  | latches
deriving DecidableEq, Repr

/-- The place of an access to the on-chip block. -/
def onChipPlace (off bytes : Nat) : OnChipPlace :=
  match intcTable.find? fun r => off < r.offset + r.bytes && r.offset < off + bytes with
  | none   => .latches
  | some r => if r.offset = off ∧ r.bytes = bytes then .register r else .otherWidth

/-- The value of a 16-bit register of R43; ICR shows the NMI pin in bit 15. -/
def Cpu.readIntc16 (c : Cpu) : IntcReg → Half
  | .iprb   => c.intc.iprb
  | .vcra   => c.intc.vcra
  | .vcrb   => c.intc.vcrb
  | .vcrc   => c.intc.vcrc
  | .vcrd   => c.intc.vcrd
  | .icr    => (c.intc.icr &&& 0x7FFF) ||| (if c.nmiPin then 0x8000 else 0x0000)
  | .ipra   => c.intc.ipra
  | .vcrwdt => c.intc.vcrwdt
  | .vcrdiv | .vcrdma0 | .vcrdma1 => 0

/-- The value of a 32-bit register of R43. -/
def Cpu.readIntc32 (c : Cpu) : IntcReg → Word
  | .vcrdiv  => c.intc.vcrdiv
  | .vcrdma0 => c.intc.vcrdma0
  | .vcrdma1 => c.intc.vcrdma1
  | _ => 0

/-- A 16-bit register keeps its implemented bits of a written value (R43); ICR bit 15 is read only. -/
def Cpu.writeIntc16 (c : Cpu) (reg : IntcReg) (v : Half) : Cpu :=
  match reg with
  | .iprb   => { c with intc := { c.intc with iprb := v &&& 0xFF00 } }
  | .vcra   => { c with intc := { c.intc with vcra := v &&& 0x7F7F } }
  | .vcrb   => { c with intc := { c.intc with vcrb := v &&& 0x7F7F } }
  | .vcrc   => { c with intc := { c.intc with vcrc := v &&& 0x7F7F } }
  | .vcrd   => { c with intc := { c.intc with vcrd := v &&& 0x7F00 } }
  | .icr    => { c with intc := { c.intc with icr := v &&& 0x0101 } }
  | .ipra   => { c with intc := { c.intc with ipra := v &&& 0xFFF0 } }
  | .vcrwdt => { c with intc := { c.intc with vcrwdt := v &&& 0x7F7F } }
  | .vcrdiv | .vcrdma0 | .vcrdma1 => c

/-- A 32-bit register keeps the value written: R43 gives these three no reserved bits. -/
def Cpu.writeIntc32 (c : Cpu) (reg : IntcReg) (v : Word) : Cpu :=
  match reg with
  | .vcrdiv  => { c with intc := { c.intc with vcrdiv := v } }
  | .vcrdma0 => { c with intc := { c.intc with vcrdma0 := v } }
  | .vcrdma1 => { c with intc := { c.intc with vcrdma1 := v } }
  | _ => c

/-! ### Reads -/

/-- `MemRead(addr, 1)` by a bus master (R84). -/
def busRead8 (b : BusMaster) (addr : Word) (s : State) : Result (Byte × State) :=
  match s.place addr with
  | .storage p _ => .next (s.mem.read p, s)
  | .external d  => .refused (.externalDevice d addr)
  | .cdBlock off => if cdTouched off 1 then .refused (.deviceWidth addr 1) else .next (0, s)
  | .scu _       => .refused (.deviceWidth addr 1)
  | .onChip off  =>
    match b with
    | .scu   => .next (0, s)
    | .cpu c =>
      match onChipPlace off 1 with
      | .latches => .next ((s.cpuOf c).onChip.read off, s)
      | _        => .refused (.deviceWidth addr 1)
  | .unmapped    => .next (0, s)

/-- `MemRead(addr, 2)` by a bus master (R85, R90). -/
def busRead16 (b : BusMaster) (addr : Word) (s : State) : Result (Half × State) :=
  if addr.toNat % 2 ≠ 0 then .fault (.misalignedAccess addr 2) else
  match s.place addr with
  | .storage p _ => .next (s.mem.read16 p, s)
  | .external d  => .refused (.externalDevice d addr)
  | .cdBlock off =>
    match CdReg.ofOffset off with
    | some reg => .next ((s.cd.read16 reg).1, { s with cd := (s.cd.read16 reg).2 })
    | none     => .next (0, s)
  | .scu _       => .refused (.deviceWidth addr 2)
  | .onChip off  =>
    match b with
    | .scu   => .next (0, s)
    | .cpu c =>
      match onChipPlace off 2 with
      | .register reg => .next ((s.cpuOf c).readIntc16 reg, s)
      | .latches      => .next ((s.cpuOf c).onChip.read16 off, s)
      | .otherWidth   => .refused (.deviceWidth addr 2)
  | .unmapped    => .next (0, s)

/-- `MemRead(addr, 4)` by a bus master (R85, R90). -/
def busRead32 (b : BusMaster) (addr : Word) (s : State) : Result (Word × State) :=
  if addr.toNat % 4 ≠ 0 then .fault (.misalignedAccess addr 4) else
  match s.place addr with
  | .storage p _ => .next (s.mem.read32 p, s)
  | .external d  => .refused (.externalDevice d addr)
  | .cdBlock off => if cdTouched off 4 then .refused (.deviceWidth addr 4) else .next (0, s)
  | .scu off     =>
    match ScuReg.ofOffset off with
    | some reg => .next (s.scu.read reg, s)
    | none     => .next (0, s)
  | .onChip off  =>
    match b with
    | .scu   => .next (0, s)
    | .cpu c =>
      match onChipPlace off 4 with
      | .register reg => .next ((s.cpuOf c).readIntc32 reg, s)
      | .latches      => .next ((s.cpuOf c).onChip.read32 off, s)
      | .otherWidth   => .refused (.deviceWidth addr 4)
  | .unmapped    => .next (0, s)

/-! ### Writes to storage and latches -/

/-- The state with its storage changed, or unchanged where the storage is read only (R87). -/
def State.updateStorage (s : State) (writable : Bool) (f : Memory → Memory) : State :=
  { s with mem := if writable then f s.mem else s.mem }

/-- The state with the on-chip latches of a CPU changed. -/
def State.updateOnChip (s : State) (c : CpuId) (f : Memory → Memory) : State :=
  s.mapCpuOf c fun cpu => { cpu with onChip := f cpu.onChip }

/-- `MemWrite(addr, 1, v)` by a bus master (R86). -/
def busWrite8 (b : BusMaster) (addr : Word) (v : Byte) (s : State) : Result State :=
  match s.place addr with
  | .storage p w => .next (s.updateStorage w fun m => m.write p v)
  | .external d  => .refused (.externalDevice d addr)
  | .cdBlock off => if cdTouched off 1 then .refused (.deviceWidth addr 1) else .next s
  | .scu _       => .refused (.deviceWidth addr 1)
  | .onChip off  =>
    match b with
    | .scu   => .next s
    | .cpu c =>
      match onChipPlace off 1 with
      | .latches => .next (s.updateOnChip c fun m => m.write off v)
      | _        => .refused (.deviceWidth addr 1)
  | .unmapped    => .next s

end Sys2Proof.Machine
end

