-- ==== Sys2Proof/Machine/Interrupts.lean ====
section
/-!
DEFINITION. Interrupts (60_exceptions.md): the source table (R524), `sendInterrupt` (R520), `ScuRaise` (R522), the
acceptance test (R531) and the bookkeeping of a return (R541). Entering a handler is in Machine/Ops.lean.
-/

namespace Sys2Proof.Machine

/-- The vector column of R524. -/
def ScuSource.vector : ScuSource → Byte
  | .vBlankIn      => 0x40
  | .vBlankOut     => 0x41
  | .hBlankIn      => 0x42
  | .timer0        => 0x43
  | .timer1        => 0x44
  | .dspEnd        => 0x45
  | .soundRequest  => 0x46
  | .systemManager => 0x47
  | .padInterrupt  => 0x48
  | .level2DmaEnd  => 0x49
  | .level1DmaEnd  => 0x4A
  | .level0DmaEnd  => 0x4B
  | .dmaIllegal    => 0x4C
  | .spriteDrawEnd => 0x4D
  | .external n    => 0x50 + BitVec.ofNat 8 n.val

/-- The level column of R524. -/
def ScuSource.level : ScuSource → Fin 17
  | .vBlankIn      => 15
  | .vBlankOut     => 14
  | .hBlankIn      => 13
  | .timer0        => 12
  | .timer1        => 11
  | .dspEnd        => 10
  | .soundRequest  => 9
  | .systemManager => 8
  | .padInterrupt  => 8
  | .level2DmaEnd  => 6
  | .level1DmaEnd  => 6
  | .level0DmaEnd  => 5
  | .dmaIllegal    => 3
  | .spriteDrawEnd => 2
  | .external n    => if n.val < 4 then 7 else if n.val < 8 then 4 else 1

/-- The IMS column of R524. -/
def ScuSource.maskBit : ScuSource → Nat
  | .vBlankIn      => 0
  | .vBlankOut     => 1
  | .hBlankIn      => 2
  | .timer0        => 3
  | .timer1        => 4
  | .dspEnd        => 5
  | .soundRequest  => 6
  | .systemManager => 7
  | .padInterrupt  => 8
  | .level2DmaEnd  => 9
  | .level1DmaEnd  => 10
  | .level0DmaEnd  => 11
  | .dmaIllegal    => 12
  | .spriteDrawEnd => 13
  | .external _    => 15

/-- The IST column of R524: the mask bit, or bit 16 and up for the external interrupts. -/
def ScuSource.statusBit : ScuSource → Nat
  | .external n => 16 + n.val
  | src         => src.maskBit

/-- The vector number of a descriptor; the NMI's is 11 (R527). -/
def Interrupt.vector : Interrupt → Byte
  | .scu src  => src.vector
  | .nmi      => 0x0B
  | .host v _ => v

/-- The priority level of a descriptor; the NMI's is 16 (R527), and no other's is (R524). -/
def Interrupt.level : Interrupt → Fin 17
  | .scu src  => src.level
  | .nmi      => 16
  | .host _ l => l.castSucc

/-- `is_level_interrupted[l] <- v`. -/
def Cpu.setLevelFlag (c : Cpu) (l : Fin 17) (v : Bool) : Cpu :=
  { c with levelInterrupted := c.levelInterrupted.set l v }

/-- `is_level_interrupted[l]`. -/
def Cpu.levelFlag (c : Cpu) (l : Fin 17) : Bool := c.levelInterrupted.get l

/-- `sendInterrupt` on one CPU (R520): level 0 is dropped, and so is a level that is pending or in service. -/
def Cpu.sendInterrupt (c : Cpu) (d : Interrupt) : Cpu :=
  if d.level = 0 then c
  else if c.levelFlag d.level then c
  else { c.setLevelFlag d.level true with pending := c.pending ++ [d] }

/-- `sendInterrupt(cpu, d)` (R520). -/
def State.sendInterrupt (s : State) (c : CpuId) (d : Interrupt) : State :=
  s.mapCpuOf c fun cpu => cpu.sendInterrupt d

/-- `ScuRaise(src)` (R522): the status bit always; the interrupt, to the master, when the mask bit is 0 now. -/
def State.scuRaise (s : State) (src : ScuSource) : State :=
  let raised := { s with scu := { s.scu with ist := s.scu.ist ||| (1#32 <<< src.statusBit) } }
  if s.scu.ims.getLsbD src.maskBit then raised
  else raised.sendInterrupt .master (.scu src)

/-- The descriptor of the greater level; the first where they are equal. -/
def Interrupt.higher (a b : Interrupt) : Interrupt :=
  if a.level < b.level then b else a

/-- The entry of a pending list with the greatest level (R531). -/
def greatestPending : List Interrupt → Option Interrupt
  | [] => none
  | d :: rest =>
    match greatestPending rest with
    | none   => some d
    | some e => some (d.higher e)

/-- The acceptance test (R531): the interrupt that the CPU takes at this boundary, if any. -/
def Cpu.acceptable (c : Cpu) : Option Interrupt :=
  match c.current with
  | some _ => none
  | none =>
    match greatestPending c.pending with
    | none   => none
    | some d => if c.sr.i.toNat < d.level.val then some d else none

/-- `return_from_interrupt()` (R541). -/
def Cpu.returnFromInterrupt (c : Cpu) : Cpu :=
  match c.current with
  | none   => c
  | some d => { c.setLevelFlag d.level false with current := none }

end Sys2Proof.Machine
end

