-- ==== Sys2Proof/Machine/ScuDma.lean ====
section
/-!
DEFINITION. The SCU's DMA (47_scu_dma.md): the configuration snapshot, the priority queue, the start events, the direct
and indirect transfers, and the register write that starts them. A transfer is a sequence of byte accesses on the bus
and ends inside the call that triggered it (R434).
-/

namespace Sys2Proof.Machine

/-- The queue status that the DMA-start sentinel stands for (R51, R405). -/
def dmaStartFactor : BitVec 3 := 7

/-- `WriteAdd(code)` (R416, R49): the table's value, or 128 for every code in the source's mode. -/
def writeAdd (mode : WriteAddMode) (code : BitVec 3) : Nat :=
  match mode with
  | .sourceCompatible => 128
  | .corrected => if code = 0 then 0 else 2 ^ code.toNat

/-- `configureDmaTransfer(L)` (R404): the snapshot of a channel's registers. D`L`MD bit 8 asks for the write update, also
in the value 0x01000107, which R437 prints as 'no update' (log 33). -/
def configureDmaTransfer (u : Scu) (p : Params) (level : Fin 3) : DmaConfig :=
  let c := u.channel level
  { level := level
    status := .finished
    readAddress := c.readAddr &&& 0x07FFFFFF
    writeAddress := c.writeAddr &&& 0x07FFFFFF
    transferByteNumber := (c.count &&& p.dmaCountMask level).setWidth 20
    readAddValue := if c.addValue.getLsbD 8 then 4 else 0
    writeAddValue := writeAdd p.writeAddMode (c.addValue.extractLsb' 0 3)
    dmaEnable := c.enable.getLsbD 8
    dmaStart := c.enable.getLsbD 0
    dmaMode := if c.mode.getLsbD 24 then .indirect else .direct
    readAddressUpdate := if c.mode.getLsbD 16 then .update else .hold
    writeAddressUpdate := if c.mode.getLsbD 8 then .update else .hold
    startingFactorSelect := c.mode.extractLsb' 0 3 }

/-- The place of a configuration in the queue: after every entry of its level or a lower one (R405). -/
def insertByLevel (cfg : DmaConfig) : List DmaConfig → List DmaConfig
  | [] => [cfg]
  | e :: rest => if cfg.level < e.level then cfg :: e :: rest else e :: insertByLevel cfg rest

/-- `addDmaToQueue(cfg)` (R405). -/
def addDmaToQueue (cfg : DmaConfig) (queue : List DmaConfig) : List DmaConfig :=
  let status := if cfg.startingFactorSelect = dmaStartFactor then .queued else .waitingStartFactor
  insertByLevel { cfg with status := status } queue

/-- The classes of DMA bus (R413). No address is on the DSP bus. -/
inductive DmaBus
  | aBus
  | bBus
  | cpuBus
  | unknownBus
deriving DecidableEq, Repr

/-- `getDmaBus(a)` (R413). -/
def getDmaBus (mode : RangeMode) (addr : Word) : DmaBus :=
  let a28 := (addr &&& 0x0FFFFFFF).toNat
  let bBusEnd := match mode with
    | .sourceRanges => 0x05FFFFFF
    | .officialMap  => 0x05FDFFFF
  if 0x05A00000 ≤ a28 ∧ a28 ≤ bBusEnd then .bBus
  else if 0x02000000 ≤ a28 ∧ a28 ≤ 0x058FFFFF then .aBus
  else if 0x06000000 ≤ a28 ∧ a28 ≤ 0x07FFFFFF then .cpuBus
  else .unknownBus

/-- `Count(n)` (R412): zero encodes the maximum on every level, which is `DMA_ZERO_COUNT`. -/
def dmaCount (p : Params) (n : BitVec 20) : Nat := if n = 0 then p.dmaZeroCount else n.toNat

/-- `ReadStride(r, cfg)` (R415): 4, but in A-bus CS2 the configured read-add value. -/
def readStride (r : Word) (cfg : DmaConfig) : Nat :=
  let a28 := (r &&& 0x0FFFFFFF).toNat
  if 0x05800000 ≤ a28 ∧ a28 ≤ 0x058FFFFF then cfg.readAddValue else 4

/-- The address byte `k` of a transfer is read from (R414). -/
def readPlace (r : Word) (cfg : DmaConfig) (k : Nat) : Word :=
  r + BitVec.ofNat 32 (k / 4 * readStride r cfg + k % 4)

/-- `WriteAddr(w, k, cfg, bus)` (R416). -/
def writePlace (mode : WriteAddMode) (w : Word) (k : Nat) (cfg : DmaConfig) (bus : DmaBus) : Word :=
  match mode, bus with
  | .corrected, .bBus => w + BitVec.ofNat 32 (k / 2 * cfg.writeAddValue + k % 2)
  | _, _ => w + BitVec.ofNat 32 k

/-- `Move` of R414 for the `left` bytes from byte `k` on, in ascending order. -/
def moveBytes (r w : Word) (cfg : DmaConfig) (bus : DmaBus) : Nat → Nat → State → Result State
  | 0, _, s => .next s
  | left + 1, k, s =>
    andThen (busRead8 .scu (readPlace r cfg k) s) fun (b, s) =>
    andThen (busWrite8 .scu (writePlace s.config.writeAddMode w k cfg bus) b s) fun s =>
    moveBytes r w cfg bus left (k + 1) s

/-- One channel's register replaced, in the whole state. -/
def State.putChannel (s : State) (level : Fin 3) (reg : ChannelReg) (v : Word) : State :=
  { s with scu := s.scu.putChannel s.config level reg v }

/-- `UpdateAddresses` (R420): from the configuration's values, each only if its flag asks for it. -/
def updateAddresses (cfg : DmaConfig) (count : Nat) (bus : DmaBus) (s : State) : State :=
  let groups := (count + 3) / 4
  let s := match cfg.readAddressUpdate with
    | .hold   => s
    | .update => s.putChannel cfg.level .readAddr
        (cfg.readAddress + BitVec.ofNat 32 (groups * readStride cfg.readAddress cfg))
  match cfg.writeAddressUpdate with
  | .hold   => s
  | .update => s.putChannel cfg.level .writeAddr
      (writePlace s.config.writeAddMode cfg.writeAddress count cfg bus)

/-- `DirectTransfer(cfg)` (R411). -/
def directTransfer (cfg : DmaConfig) (s : State) : Result State :=
  let count := dmaCount s.config cfg.transferByteNumber
  match getDmaBus s.config.rangeMode cfg.writeAddress with
  | .unknownBus => .next s
  | bus =>
    andThen (moveBytes cfg.readAddress cfg.writeAddress cfg bus count 0 s) fun s =>
    .next (updateAddresses cfg count bus s)

/-- One descriptor moved, or skipped where its write address is on no known bus (R421, R431). -/
def moveDescriptor (r w : Word) (count : Nat) (cfg : DmaConfig) (s : State) : Result State :=
  match getDmaBus s.config.rangeMode w with
  | .unknownBus => .next s
  | bus         => moveBytes r w cfg bus count 0 s

/-- The descriptors a chain may have before the model calls it endless (R425, U11; log 9). -/
def chainFuel : Nat := 2 ^ 30

/-- The loop of `IndirectTransfer` (R421) from descriptor `p` on: the address of the terminal descriptor and the state.
The words are read in the order +8, +4, +0 (R423); a bit of `DMA_END_CODE` in the read
address ends the chain (R425). -/
def runChain (cfg : DmaConfig) : Nat → Word → State → Result (Word × State)
  | 0, p, _ => .fault (.dmaChainEndless p)
  | fuel + 1, p, s =>
    andThen (busRead32 .scu (p + 8) s) fun (rawRead, s) =>
    andThen (busRead32 .scu (p + 4) s) fun (rawWrite, s) =>
    andThen (busRead32 .scu p s) fun (rawCount, s) =>
    andThen (moveDescriptor (rawRead &&& 0x07FFFFFF) (rawWrite &&& 0x07FFFFFF)
        (dmaCount s.config (rawCount.extractLsb' 0 20)) cfg s) fun s =>
    if rawRead &&& s.config.dmaEndCode ≠ 0 then .next (p, s) else runChain cfg fuel (p + 0xC) s

/-- `IndirectTransfer(cfg)` (R421, R426): the pointer itself is what an update persists. -/
def indirectTransfer (cfg : DmaConfig) (s : State) : Result State :=
  andThen (runChain cfg chainFuel cfg.writeAddress s) fun (p, s) =>
  match cfg.writeAddressUpdate with
  | .hold   => .next s
  | .update => .next (s.putChannel cfg.level .writeAddr p)

/-- The source of the DMA-end interrupt of a level (R428). -/
def dmaEndSource (level : Fin 3) : ScuSource :=
  if level = 0 then .level0DmaEnd else if level = 1 then .level1DmaEnd else .level2DmaEnd

/-- `D[L]EN[8] <- 0` (R430); bit 0 keeps its value. -/
def State.clearEnable (s : State) (level : Fin 3) : State :=
  s.putChannel level .enable ((s.scu.channel level).enable &&& 0xFFFFFEFF)

/-- `executeDma(cfg)` (R410): the transfer, the end interrupt, and for the DMA-start sentinel the enable bit. -/
def executeDma (cfg : DmaConfig) (s : State) : Result State :=
  let cfg := { cfg with status := .active }
  let transferred := match cfg.dmaMode with
    | .direct   => directTransfer cfg s
    | .indirect => indirectTransfer cfg s
  andThen transferred fun s =>
  let s := s.scuRaise (dmaEndSource cfg.level)
  .next (if cfg.startingFactorSelect = dmaStartFactor then s.clearEnable cfg.level else s)

/-- `activateDma()` (R407), given at least as much fuel as the queue has entries: pops and executes the queued entries
at the head, and stops at the first that is not queued (R408). An entry runs once and is gone (R406), against R583 (d)
(log 34). -/
def activateLoop : Nat → State → Result State
  | 0, s => .next s
  | fuel + 1, s =>
    match s.scu.queue with
    | [] => .next s
    | cfg :: rest =>
      if cfg.status = .queued then
        andThen (executeDma cfg { s with scu := { s.scu with queue := rest } }) fun s => activateLoop fuel s
      else .next s

/-- `activateDma()` (R407). No transfer adds to the queue, so its length bounds the loop. -/
def activateDma (s : State) : Result State := activateLoop s.scu.queue.length s

/-- The factor code of a start event (R51). -/
def StartEvent.code : StartEvent → BitVec 3
  | .vBlankIn      => 0
  | .vBlankOut     => 1
  | .hBlankIn      => 2
  | .timer0        => 3
  | .timer1        => 4
  | .soundRequest  => 5
  | .spriteDrawEnd => 6

/-- An entry that waits for this factor is released (R406). -/
def DmaConfig.release (cfg : DmaConfig) (factor : BitVec 3) : DmaConfig :=
  if cfg.status = .waitingStartFactor ∧ cfg.startingFactorSelect = factor then { cfg with status := .queued } else cfg

/-- `sendStartFactor(factor)` (R406). -/
def sendStartFactor (e : StartEvent) (s : State) : Result State :=
  activateDma { s with scu := { s.scu with queue := s.scu.queue.map fun cfg => cfg.release e.code } }

/-- The enable trigger (R402): configure, queue, activate. -/
def enableDma (level : Fin 3) (s : State) : Result State :=
  let cfg := configureDmaTransfer s.scu s.config level
  activateDma { s with scu := { s.scu with queue := addDmaToQueue cfg s.scu.queue } }

/-- `write32(addr, data)` at an offset (R401): the register, then the enable trigger if bit 8 is written to D`L`EN. -/
def scuWrite32 (off : Nat) (data : Word) (s : State) : Result State :=
  match ScuReg.ofOffset off with
  | none     => .next s
  | some reg =>
    let written := { s with scu := s.scu.write s.config reg data }
    match reg with
    | .channel level .enable => if data.getLsbD 8 then enableDma level written else .next written
    | _ => .next written

end Sys2Proof.Machine
end

