-- ==== Sys2Proof/Machine/Ops.lean ====
section
/-!
DEFINITION. The operations that the meanings share: the active CPU's memory accesses of every width (R84 to R90), the
end of an ordinary instruction (R24, R162), stack pushes, a halt (R501), and taking an exception and returning from one
(R534, R366, R381), each written once.
-/

namespace Sys2Proof.Machine

/-- `MemRead(addr, 1)` by the active CPU. -/
def memRead8 (addr : Word) (s : State) : Result (Byte × State) := busRead8 (.cpu s.active) addr s

/-- `MemRead(addr, 2)` by the active CPU. -/
def memRead16 (addr : Word) (s : State) : Result (Half × State) := busRead16 (.cpu s.active) addr s

/-- `MemRead(addr, 4)` by the active CPU. -/
def memRead32 (addr : Word) (s : State) : Result (Word × State) := busRead32 (.cpu s.active) addr s

/-- `MemWrite(addr, 1, v)` by the active CPU. -/
def memWrite8 (addr : Word) (v : Byte) (s : State) : Result State := busWrite8 (.cpu s.active) addr v s

/-- `MemWrite(addr, 2, v)` by the active CPU (R86, R90): a CD register takes the whole value (R443). -/
def memWrite16 (addr : Word) (v : Half) (s : State) : Result State :=
  if addr.toNat % 2 ≠ 0 then .fault (.misalignedAccess addr 2) else
  match s.place addr with
  | .storage p w => .next (s.updateStorage w fun m => m.write16 p v)
  | .external d  => .refused (.externalDevice d addr)
  | .cdBlock off =>
    match CdReg.ofOffset off with
    | some reg => .next { s with cd := s.cd.write16 s.config reg v }
    | none     => .next s
  | .scu _       => .refused (.deviceWidth addr 2)
  | .onChip off  =>
    match onChipPlace off 2 with
    | .register reg => .next (s.mapCpu fun c => c.writeIntc16 reg v)
    | .latches      => .next (s.updateOnChip s.active fun m => m.write16 off v)
    | .otherWidth   => .refused (.deviceWidth addr 2)
  | .unmapped    => .next s

/-- `MemWrite(addr, 4, v)` by the active CPU (R86, R90): the SCU takes the whole value, and may run a DMA (R401). -/
def memWrite32 (addr : Word) (v : Word) (s : State) : Result State :=
  if addr.toNat % 4 ≠ 0 then .fault (.misalignedAccess addr 4) else
  match s.place addr with
  | .storage p w => .next (s.updateStorage w fun m => m.write32 p v)
  | .external d  => .refused (.externalDevice d addr)
  | .cdBlock off => if cdTouched off 4 then .refused (.deviceWidth addr 4) else .next s
  | .scu off     => scuWrite32 off v s
  | .onChip off  =>
    match onChipPlace off 4 with
    | .register reg => .next (s.mapCpu fun c => c.writeIntc32 reg v)
    | .latches      => .next (s.updateOnChip s.active fun m => m.write32 off v)
    | .otherWidth   => .refused (.deviceWidth addr 4)
  | .unmapped    => .next s

/-- `CYCLES` of an instruction of this row of R591's table. -/
def State.cost (s : State) (row : CycleRow) : Nat := s.config.cycles.at row

/-- The end of an instruction that does not branch: `pc <- pc + 2`, `cycles_elapsed` its cost (R24, R162, R591). -/
def State.advance (s : State) (row : CycleRow) : State :=
  s.mapCpu fun c => { c with pc := c.pc + 2, cyclesElapsed := s.cost row }

/-- A simple instruction's end: `pc + 2` and the cost of the simple ones, one cycle (R162, R591). -/
def State.simple (s : State) : State := s.advance .simple

/-- A halt (R174, R181, R501): the diagnostic is recorded and `emulation_stopped` set; no register changes but
`cycles_elapsed`, which R592 leaves unspecified: a free value (log 7). -/
def State.halt (s : State) (reason : HaltReason) (word : Half) (pc : Word) : State :=
  { s.setCycles (Config.freeCycles s.draws) with
    emulationStopped := true
    diagnostic := some ⟨reason, s.active, word, pc⟩
    draws := s.draws + 1 }

/-- `R[n] <- R[n] - 4` after the longword is stored there: the pre-decrement stores (R213, R372, R378). -/
def pushLong (n : Reg) (v : Word) (s : State) : Result State :=
  let addr := s.reg n - 4
  andThen (memWrite32 addr v s) fun s => .next (s.setReg n addr)

/-- The longword at `R[n]`, and `R[n] <- R[n] + 4`: the post-increment loads (R356, R362). -/
def popLong (n : Reg) (s : State) : Result (Word × State) :=
  let addr := s.reg n
  andThen (memRead32 addr s) fun (v, s) => .next (v, s.setReg n (addr + 4))

/-- One push on the exception stack: R15 moves before the store (R534, R366). -/
def pushFrameWord (v : Word) (s : State) : Result State :=
  let s := s.setReg Reg.sp (s.reg Reg.sp - 4)
  memWrite32 (s.reg Reg.sp) v s

/-- Taking an exception (R534, R366, R536): SR and then the return address are pushed on R15, `update` is applied to
the CPU, and the pc becomes the longword at `VBR + 4*vector`. Interrupt entry and `TRAPA` are both this, with different
updates and costs. -/
def takeException (vector : Byte) (returnPc : Word) (update : Cpu → Cpu) (cost : Nat) (s : State) : Result State :=
  andThen (pushFrameWord s.cpu.sr.toWord s) fun s =>
  andThen (pushFrameWord returnPc s) fun s =>
  let s := s.mapCpu update
  andThen (memRead32 (s.cpu.vbr + zext vector * 4) s) fun (target, s) =>
  .next ((s.setPc target).setCycles cost)

/-- The part of an interrupt's entry that is the CPU's own (R534): `SR.I <- min(level, 15)`, the current interrupt,
and the end of sleep. -/
def Cpu.enterInterrupt (d : Interrupt) (c : Cpu) : Cpu :=
  { c with
    sr := { c.sr with i := BitVec.ofNat 4 (min d.level.val 15) }
    current := some d
    sleeping := false }

/-- Accepting an interrupt (R534): it leaves the pending list, and its exception is taken; the return address is the
pc of the instruction that has not run. -/
def acceptInterrupt (d : Interrupt) (s : State) : Result State :=
  let s := s.mapCpu fun c => { c with pending := c.pending.erase d }
  takeException d.vector s.cpu.pc (Cpu.enterInterrupt d) s.config.intEntryCycles s

/-- Returning from an exception (R381, R540): the return address and then SR are popped from R15, and the interrupt
bookkeeping of R541 is done. The answer is the address to return to, which `RTE` commits after its slot. -/
def returnFromException (s : State) : Result (Word × State) :=
  andThen (popLong Reg.sp s) fun (target, s) =>
  andThen (popLong Reg.sp s) fun (sr, s) =>
  .next (target, (s.setSr (SR.ofWord sr)).mapCpu Cpu.returnFromInterrupt)

end Sys2Proof.Machine
end

