-- ==== Sys2Proof/Machine/Operands.lean ====
section
/-!
DEFINITION. Operand forms (R123, R200): effective addresses, branch targets, and the loads and stores of each width
that the data transfer instructions share. Addresses wrap modulo 2^32.
-/

namespace Sys2Proof.Machine

/-! ### Effective addresses and targets -/

/-- `@(disp,Rn)`: the displacement counted in units of `scale` bytes (R217 to R222). -/
def eaDisp (n : Reg) (disp : BitVec 4) (scale : Word) (s : State) : Word := s.reg n + zext disp * scale

/-- `@(R0,Rn)`: the index is not scaled (R223 to R228). -/
def eaIndexed (n : Reg) (s : State) : Word := s.reg n + s.reg Reg.r0

/-- `@(disp,GBR)` (R229 to R234). -/
def eaGbr (disp : Byte) (scale : Word) (s : State) : Word := s.cpu.gbr + zext disp * scale

/-- `@(R0,GBR)` (R290 (c)). -/
def eaGbrIndexed (s : State) : Word := s.cpu.gbr + s.reg Reg.r0

/-- `@(disp,PC)` of a word: from `pc + 4`, not rounded (R202). -/
def eaPcWord (disp : Byte) (s : State) : Word := s.cpu.pc + 4 + zext disp * 2

/-- `@(disp,PC)` of a longword: from `pc + 4` rounded down to a multiple of 4 (R203, R235). -/
def eaPcLong (disp : Byte) (s : State) : Word := ((s.cpu.pc + 4) &&& 0xFFFFFFFC) + zext disp * 4

/-- The target of a PC-relative branch: `pc + 4` and a signed displacement in words (R330). -/
def branchTarget {n : Nat} (disp : BitVec n) (s : State) : Word := s.cpu.pc + 4 + sext disp * 2

/-- The target of `BRAF` and `BSRF`: `pc + 4` and a byte offset in a register (R336, R338). -/
def registerTarget (m : Reg) (s : State) : Word := s.cpu.pc + 4 + s.reg m

/-! ### Loads and stores of the simple instructions (R200) -/

/-- `R[n] <- sext_8(MemRead(addr, 1))`. -/
def loadByte (addr : Word) (n : Reg) (s : State) : Result State :=
  andThen (memRead8 addr s) fun (v, s) => .next (s.setReg n (sext v)).simple

/-- `R[n] <- sext_16(MemRead(addr, 2))`. -/
def loadWord (addr : Word) (n : Reg) (s : State) : Result State :=
  andThen (memRead16 addr s) fun (v, s) => .next (s.setReg n (sext v)).simple

/-- `R[n] <- MemRead(addr, 4)`. -/
def loadLong (addr : Word) (n : Reg) (s : State) : Result State :=
  andThen (memRead32 addr s) fun (v, s) => .next (s.setReg n v).simple

/-- `MemWrite(addr, 1, v[7:0])`. -/
def storeByte (addr v : Word) (s : State) : Result State :=
  andThen (memWrite8 addr (v.extractLsb' 0 8) s) fun s => .next s.simple

/-- `MemWrite(addr, 2, v[15:0])`. -/
def storeWord (addr v : Word) (s : State) : Result State :=
  andThen (memWrite16 addr (v.extractLsb' 0 16) s) fun s => .next s.simple

/-- `MemWrite(addr, 4, v)`. -/
def storeLong (addr v : Word) (s : State) : Result State :=
  andThen (memWrite32 addr v s) fun s => .next s.simple

/-- `@Rm+`: the base moves unless it is also the destination, where the loaded value wins (R214 to R216). -/
def postIncrement (m n : Reg) (step : Word) (s : State) : State :=
  if m = n then s else s.setReg m (s.reg m + step)

end Sys2Proof.Machine
end

