-- ==== Sys2Proof/Machine/DataTransfer.lean ====
section
/-!
DEFINITION. The 39 data transfer instructions (42_sh2_data_transfer.md). None writes a flag (R200 (b)).
-/

namespace Sys2Proof.Machine

/-! ### Immediate, PC-relative, register to register -/

/-- `MOV #imm,Rn` (R201). -/
def execMovImm (imm : Byte) (n : Reg) (s : State) : Result State :=
  .next (s.setReg n (sext imm)).simple

/-- `MOV.W @(disp,PC),Rn` (R202). -/
def execMovwLoadPc (disp : Byte) (n : Reg) (s : State) : Result State :=
  loadWord (eaPcWord disp s) n s

/-- `MOV.L @(disp,PC),Rn` (R203). -/
def execMovlLoadPc (disp : Byte) (n : Reg) (s : State) : Result State :=
  loadLong (eaPcLong disp s) n s

/-- `MOV Rm,Rn` (R204). -/
def execMovReg (m n : Reg) (s : State) : Result State :=
  .next (s.setReg n (s.reg m)).simple

/-! ### Register indirect -/

/-- `MOV.B Rm,@Rn` (R205). -/
def execMovbStore (m n : Reg) (s : State) : Result State := storeByte (s.reg n) (s.reg m) s

/-- `MOV.W Rm,@Rn` (R206). -/
def execMovwStore (m n : Reg) (s : State) : Result State := storeWord (s.reg n) (s.reg m) s

/-- `MOV.L Rm,@Rn` (R207). -/
def execMovlStore (m n : Reg) (s : State) : Result State := storeLong (s.reg n) (s.reg m) s

/-- `MOV.B @Rm,Rn` (R208). -/
def execMovbLoad (m n : Reg) (s : State) : Result State := loadByte (s.reg m) n s

/-- `MOV.W @Rm,Rn` (R209). -/
def execMovwLoad (m n : Reg) (s : State) : Result State := loadWord (s.reg m) n s

/-- `MOV.L @Rm,Rn` (R210). -/
def execMovlLoad (m n : Reg) (s : State) : Result State := loadLong (s.reg m) n s

/-! ### Pre-decrement and post-increment -/

/-- `MOV.B Rm,@-Rn` (R211): the stored value is read before the decrement. -/
def execMovbPush (m n : Reg) (s : State) : Result State :=
  let addr := s.reg n - 1
  andThen (memWrite8 addr ((s.reg m).extractLsb' 0 8) s) fun s => .next (s.setReg n addr).simple

/-- `MOV.W Rm,@-Rn` (R212). -/
def execMovwPush (m n : Reg) (s : State) : Result State :=
  let addr := s.reg n - 2
  andThen (memWrite16 addr ((s.reg m).extractLsb' 0 16) s) fun s => .next (s.setReg n addr).simple

/-- `MOV.L Rm,@-Rn` (R213). -/
def execMovlPush (m n : Reg) (s : State) : Result State :=
  andThen (pushLong n (s.reg m) s) fun s => .next s.simple

/-- `MOV.B @Rm+,Rn` (R214). -/
def execMovbPop (m n : Reg) (s : State) : Result State :=
  andThen (memRead8 (s.reg m) s) fun (v, s) => .next ((postIncrement m n 1 s).setReg n (sext v)).simple

/-- `MOV.W @Rm+,Rn` (R215). -/
def execMovwPop (m n : Reg) (s : State) : Result State :=
  andThen (memRead16 (s.reg m) s) fun (v, s) => .next ((postIncrement m n 2 s).setReg n (sext v)).simple

/-- `MOV.L @Rm+,Rn` (R216). -/
def execMovlPop (m n : Reg) (s : State) : Result State :=
  andThen (memRead32 (s.reg m) s) fun (v, s) => .next ((postIncrement m n 4 s).setReg n v).simple

/-! ### Register plus displacement -/

/-- `MOV.B R0,@(disp,Rn)` (R217). -/
def execMovbStoreDisp (disp : BitVec 4) (n : Reg) (s : State) : Result State :=
  storeByte (eaDisp n disp 1 s) (s.reg Reg.r0) s

/-- `MOV.W R0,@(disp,Rn)` (R218). -/
def execMovwStoreDisp (disp : BitVec 4) (n : Reg) (s : State) : Result State :=
  storeWord (eaDisp n disp 2 s) (s.reg Reg.r0) s

/-- `MOV.L Rm,@(disp,Rn)` (R219). -/
def execMovlStoreDisp (m : Reg) (disp : BitVec 4) (n : Reg) (s : State) : Result State :=
  storeLong (eaDisp n disp 4 s) (s.reg m) s

/-- `MOV.B @(disp,Rm),R0` (R220). -/
def execMovbLoadDisp (disp : BitVec 4) (m : Reg) (s : State) : Result State :=
  loadByte (eaDisp m disp 1 s) Reg.r0 s

/-- `MOV.W @(disp,Rm),R0` (R221). -/
def execMovwLoadDisp (disp : BitVec 4) (m : Reg) (s : State) : Result State :=
  loadWord (eaDisp m disp 2 s) Reg.r0 s

/-- `MOV.L @(disp,Rm),Rn` (R222). -/
def execMovlLoadDisp (disp : BitVec 4) (m n : Reg) (s : State) : Result State :=
  loadLong (eaDisp m disp 4 s) n s

/-! ### Indexed by R0 -/

/-- `MOV.B Rm,@(R0,Rn)` (R223). -/
def execMovbStoreIdx (m n : Reg) (s : State) : Result State := storeByte (eaIndexed n s) (s.reg m) s

/-- `MOV.W Rm,@(R0,Rn)` (R224). -/
def execMovwStoreIdx (m n : Reg) (s : State) : Result State := storeWord (eaIndexed n s) (s.reg m) s

/-- `MOV.L Rm,@(R0,Rn)` (R225). -/
def execMovlStoreIdx (m n : Reg) (s : State) : Result State := storeLong (eaIndexed n s) (s.reg m) s

/-- `MOV.B @(R0,Rm),Rn` (R226). -/
def execMovbLoadIdx (m n : Reg) (s : State) : Result State := loadByte (eaIndexed m s) n s

/-- `MOV.W @(R0,Rm),Rn` (R227). -/
def execMovwLoadIdx (m n : Reg) (s : State) : Result State := loadWord (eaIndexed m s) n s

/-- `MOV.L @(R0,Rm),Rn` (R228). -/
def execMovlLoadIdx (m n : Reg) (s : State) : Result State := loadLong (eaIndexed m s) n s

/-! ### GBR plus displacement -/

/-- `MOV.B R0,@(disp,GBR)` (R229). -/
def execMovbStoreGbr (disp : Byte) (s : State) : Result State := storeByte (eaGbr disp 1 s) (s.reg Reg.r0) s

/-- `MOV.W R0,@(disp,GBR)` (R230). -/
def execMovwStoreGbr (disp : Byte) (s : State) : Result State := storeWord (eaGbr disp 2 s) (s.reg Reg.r0) s

/-- `MOV.L R0,@(disp,GBR)` (R231). -/
def execMovlStoreGbr (disp : Byte) (s : State) : Result State := storeLong (eaGbr disp 4 s) (s.reg Reg.r0) s

/-- `MOV.B @(disp,GBR),R0` (R232). -/
def execMovbLoadGbr (disp : Byte) (s : State) : Result State := loadByte (eaGbr disp 1 s) Reg.r0 s

/-- `MOV.W @(disp,GBR),R0` (R233). -/
def execMovwLoadGbr (disp : Byte) (s : State) : Result State := loadWord (eaGbr disp 2 s) Reg.r0 s

/-- `MOV.L @(disp,GBR),R0` (R234). -/
def execMovlLoadGbr (disp : Byte) (s : State) : Result State := loadLong (eaGbr disp 4 s) Reg.r0 s

/-! ### Address, T bit, rearrangement -/

/-- `MOVA @(disp,PC),R0` (R235): no memory access. -/
def execMova (disp : Byte) (s : State) : Result State :=
  .next (s.setReg Reg.r0 (eaPcLong disp s)).simple

/-- `MOVT Rn` (R236). -/
def execMovt (n : Reg) (s : State) : Result State :=
  .next (s.setReg n (zext (BitVec.ofBool s.cpu.sr.t))).simple

/-- `SWAP.B Rm,Rn` (R237). -/
def execSwapb (m n : Reg) (s : State) : Result State :=
  .next (s.setReg n (swapBytes (s.reg m))).simple

/-- `SWAP.W Rm,Rn` (R238). -/
def execSwapw (m n : Reg) (s : State) : Result State :=
  .next (s.setReg n (swapWords (s.reg m))).simple

/-- `XTRCT Rm,Rn` (R239). -/
def execXtrct (m n : Reg) (s : State) : Result State :=
  .next (s.setReg n (middleWords (s.reg m) (s.reg n))).simple

end Sys2Proof.Machine
end

