-- ==== Sys2Proof/Machine/Arithmetic.lean ====
section
/-!
DEFINITION. The 33 arithmetic instructions (43_sh2_arithmetic.md). T is written only where a rule says so (R250 (b)).
-/

namespace Sys2Proof.Machine

/-- A result into `R[n]` and its flag into T. -/
def State.setRegT (s : State) (n : Reg) (result : Word × Bool) : State := (s.setReg n result.1).setT result.2

/-- `MACH ++ MACL <- v`. -/
def State.setMac (s : State) (v : BitVec 64) : State :=
  (s.setMach (v.extractLsb' 32 32)).setMacl (v.extractLsb' 0 32)

/-- A comparison: T alone, one cycle. -/
def testT (t : Bool) (s : State) : Result State := .next (s.setT t).simple

/-! ### Addition -/

/-- `ADD Rm,Rn` (R251): T unchanged. -/
def execAddReg (m n : Reg) (s : State) : Result State :=
  .next (s.setReg n (s.reg n + s.reg m)).simple

/-- `ADD #imm,Rn` (R252). -/
def execAddImm (imm : Byte) (n : Reg) (s : State) : Result State :=
  .next (s.setReg n (s.reg n + sext imm)).simple

/-- `ADDC Rm,Rn` (R253). -/
def execAddc (m n : Reg) (s : State) : Result State :=
  .next (s.setRegT n (addWithCarry (s.reg n) (s.reg m) s.cpu.sr.t)).simple

/-- `ADDV Rm,Rn` (R254). -/
def execAddv (m n : Reg) (s : State) : Result State :=
  .next (s.setRegT n (addWithOverflow (s.reg n) (s.reg m))).simple

/-! ### Comparison: `Rn` against `Rm` -/

/-- `CMP/EQ #imm,R0` (R255). -/
def execCmpEqImm (imm : Byte) (s : State) : Result State :=
  testT (decide (s.reg Reg.r0 = sext imm)) s

/-- `CMP/EQ Rm,Rn` (R256). -/
def execCmpEqReg (m n : Reg) (s : State) : Result State := testT (decide (s.reg n = s.reg m)) s

/-- `CMP/HS Rm,Rn` (R257). -/
def execCmpHs (m n : Reg) (s : State) : Result State := testT (decide ((s.reg n).toNat ≥ (s.reg m).toNat)) s

/-- `CMP/GE Rm,Rn` (R258). -/
def execCmpGe (m n : Reg) (s : State) : Result State := testT (decide ((s.reg n).toInt ≥ (s.reg m).toInt)) s

/-- `CMP/HI Rm,Rn` (R259). -/
def execCmpHi (m n : Reg) (s : State) : Result State := testT (decide ((s.reg n).toNat > (s.reg m).toNat)) s

/-- `CMP/GT Rm,Rn` (R260). -/
def execCmpGt (m n : Reg) (s : State) : Result State := testT (decide ((s.reg n).toInt > (s.reg m).toInt)) s

/-- `CMP/PL Rn` (R261). -/
def execCmpPl (n : Reg) (s : State) : Result State := testT (decide ((s.reg n).toInt > 0)) s

/-- `CMP/PZ Rn` (R262). -/
def execCmpPz (n : Reg) (s : State) : Result State := testT (decide ((s.reg n).toInt ≥ 0)) s

/-- `CMP/STR Rm,Rn` (R263). -/
def execCmpStr (m n : Reg) (s : State) : Result State := testT (someByteEqual (s.reg n) (s.reg m)) s

/-! ### Division steps -/

/-- `DIV1 Rm,Rn` (R264): writes the register, Q and T; M is not changed. -/
def execDiv1 (m n : Reg) (s : State) : Result State :=
  let sr := s.cpu.sr
  let step := divStep (s.reg n) (s.reg m) sr.q sr.m sr.t
  .next ((s.setReg n step.value).setSr { sr with q := step.q, t := step.t }).simple

/-- `DIV0S Rm,Rn` (R265). -/
def execDiv0s (m n : Reg) (s : State) : Result State :=
  let q := (s.reg n).msb
  let mBit := (s.reg m).msb
  .next (s.setSr { s.cpu.sr with q := q, m := mBit, t := q ^^ mBit }).simple

/-- `DIV0U` (R266). -/
def execDiv0u (s : State) : Result State :=
  .next (s.setSr { s.cpu.sr with q := false, m := false, t := false }).simple

/-! ### Multiplication -/

/-- `DMULS.L Rm,Rn` (R267). -/
def execDmulsl (m n : Reg) (s : State) : Result State :=
  .next ((s.setMac (BitVec.ofInt 64 ((s.reg n).toInt * (s.reg m).toInt))).advance .multiply)

/-- `DMULU.L Rm,Rn` (R268). -/
def execDmulul (m n : Reg) (s : State) : Result State :=
  .next ((s.setMac (BitVec.ofNat 64 ((s.reg n).toNat * (s.reg m).toNat))).advance .multiply)

/-- `DT Rn` (R269): T says whether the new value is zero. -/
def execDt (n : Reg) (s : State) : Result State :=
  let v := s.reg n - 1
  .next (s.setRegT n (v, decide (v = 0))).simple

/-! ### Extension -/

/-- `EXTS.B Rm,Rn` (R270). -/
def execExtsb (m n : Reg) (s : State) : Result State :=
  .next (s.setReg n (sext ((s.reg m).extractLsb' 0 8))).simple

/-- `EXTS.W Rm,Rn` (R271). -/
def execExtsw (m n : Reg) (s : State) : Result State :=
  .next (s.setReg n (sext ((s.reg m).extractLsb' 0 16))).simple

/-- `EXTU.B Rm,Rn` (R272). -/
def execExtub (m n : Reg) (s : State) : Result State :=
  .next (s.setReg n (zext ((s.reg m).extractLsb' 0 8))).simple

/-- `EXTU.W Rm,Rn` (R273). -/
def execExtuw (m n : Reg) (s : State) : Result State :=
  .next (s.setReg n (zext ((s.reg m).extractLsb' 0 16))).simple

/-! ### Multiply and accumulate: the operand of `Rn` is read first -/

/-- `MAC.L @Rm+,@Rn+` (R274). -/
def execMacL (m n : Reg) (s : State) : Result State :=
  andThen (popLong n s) fun (a, s) =>
  andThen (popLong m s) fun (b, s) =>
  .next ((s.setMac (macLong s.cpu.mach s.cpu.macl a b s.cpu.sr.s s.config.maclSat)).advance .multiplyAccumulate)

/-- `@Rn+` of a word (R275). -/
def popWord (n : Reg) (s : State) : Result (Half × State) :=
  let addr := s.reg n
  andThen (memRead16 addr s) fun (v, s) => .next (v, s.setReg n (addr + 2))

/-- `MAC.W @Rm+,@Rn+` (R275). -/
def execMacW (m n : Reg) (s : State) : Result State :=
  andThen (popWord n s) fun (a, s) =>
  andThen (popWord m s) fun (b, s) =>
  .next ((s.setMac (macWord s.cpu.mach s.cpu.macl a b s.cpu.sr.s s.config.macwSatSetsMachLsb)).advance .multiplyAccumulate)

/-- `MUL.L Rm,Rn` (R276): MACH unchanged. -/
def execMull (m n : Reg) (s : State) : Result State :=
  .next ((s.setMacl (s.reg n * s.reg m)).advance .multiply)

/-- `MULS.W Rm,Rn` (R277). -/
def execMulsw (m n : Reg) (s : State) : Result State :=
  .next (s.setMacl (BitVec.ofInt 32
    (((s.reg n).extractLsb' 0 16).toInt * ((s.reg m).extractLsb' 0 16).toInt))).simple

/-- `MULU.W Rm,Rn` (R278). -/
def execMuluw (m n : Reg) (s : State) : Result State :=
  .next (s.setMacl (zext ((s.reg n).extractLsb' 0 16) * zext ((s.reg m).extractLsb' 0 16))).simple

/-! ### Negation and subtraction -/

/-- `NEG Rm,Rn` (R279). -/
def execNegReg (m n : Reg) (s : State) : Result State :=
  .next (s.setReg n (0 - s.reg m)).simple

/-- `NEGC Rm,Rn` (R280). -/
def execNegc (m n : Reg) (s : State) : Result State :=
  .next (s.setRegT n (subWithBorrow 0 (s.reg m) s.cpu.sr.t)).simple

/-- `SUB Rm,Rn` (R281). -/
def execSubReg (m n : Reg) (s : State) : Result State :=
  .next (s.setReg n (s.reg n - s.reg m)).simple

/-- `SUBC Rm,Rn` (R282). -/
def execSubc (m n : Reg) (s : State) : Result State :=
  .next (s.setRegT n (subWithBorrow (s.reg n) (s.reg m) s.cpu.sr.t)).simple

/-- `SUBV Rm,Rn` (R283). -/
def execSubv (m n : Reg) (s : State) : Result State :=
  .next (s.setRegT n (subWithOverflow (s.reg n) (s.reg m))).simple

end Sys2Proof.Machine
end

