-- ==== Sys2Proof/Machine/LogicShift.lean ====
section
/-!
DEFINITION. The 14 logic and 14 shift instructions (44_sh2_logic_shift.md). Immediates are zero-extended (R290 (b)).
-/

namespace Sys2Proof.Machine

/-- The `.B` forms on `@(R0,GBR)` that write back: a read and a write of one byte, three cycles (R290 (c)). -/
def modifyGbrByte (f : Byte → Byte) (s : State) : Result State :=
  let addr := eaGbrIndexed s
  andThen (memRead8 addr s) fun (b, s) =>
  andThen (memWrite8 addr (f b) s) fun s => .next (s.advance .memoryLogic)

/-! ### Logic -/

/-- `AND Rm,Rn` (R291). -/
def execAndReg (m n : Reg) (s : State) : Result State := .next (s.setReg n (s.reg n &&& s.reg m)).simple

/-- `AND #imm,R0` (R292). -/
def execAndImm (imm : Byte) (s : State) : Result State :=
  .next (s.setReg Reg.r0 (s.reg Reg.r0 &&& zext imm)).simple

/-- `AND.B #imm,@(R0,GBR)` (R293). -/
def execAndbGbr (imm : Byte) (s : State) : Result State := modifyGbrByte (· &&& imm) s

/-- `NOT Rm,Rn` (R294). -/
def execNotReg (m n : Reg) (s : State) : Result State := .next (s.setReg n (~~~ s.reg m)).simple

/-- `OR Rm,Rn` (R295). -/
def execOrReg (m n : Reg) (s : State) : Result State := .next (s.setReg n (s.reg n ||| s.reg m)).simple

/-- `OR #imm,R0` (R296). -/
def execOrImm (imm : Byte) (s : State) : Result State :=
  .next (s.setReg Reg.r0 (s.reg Reg.r0 ||| zext imm)).simple

/-- `OR.B #imm,@(R0,GBR)` (R297). -/
def execOrbGbr (imm : Byte) (s : State) : Result State := modifyGbrByte (· ||| imm) s

/-- `TAS.B @Rn` (R298): the write happens whatever was read; four cycles. -/
def execTasb (n : Reg) (s : State) : Result State :=
  let addr := s.reg n
  andThen (memRead8 addr s) fun (b, s) =>
  andThen (memWrite8 addr (b ||| 0x80) s) fun s => .next ((s.setT (decide (b = 0))).advance .testAndSet)

/-- `TST Rm,Rn` (R299). -/
def execTstReg (m n : Reg) (s : State) : Result State := testT (decide (s.reg n &&& s.reg m = 0)) s

/-- `TST #imm,R0` (R300). -/
def execTstImm (imm : Byte) (s : State) : Result State := testT (decide (s.reg Reg.r0 &&& zext imm = 0)) s

/-- `TST.B #imm,@(R0,GBR)` (R301): nothing is written; three cycles. -/
def execTstbGbr (imm : Byte) (s : State) : Result State :=
  andThen (memRead8 (eaGbrIndexed s) s) fun (b, s) => .next ((s.setT (decide (b &&& imm = 0))).advance .memoryLogic)

/-- `XOR Rm,Rn` (R302). -/
def execXorReg (m n : Reg) (s : State) : Result State := .next (s.setReg n (s.reg n ^^^ s.reg m)).simple

/-- `XOR #imm,R0` (R303). -/
def execXorImm (imm : Byte) (s : State) : Result State :=
  .next (s.setReg Reg.r0 (s.reg Reg.r0 ^^^ zext imm)).simple

/-- `XOR.B #imm,@(R0,GBR)` (R304). -/
def execXorbGbr (imm : Byte) (s : State) : Result State := modifyGbrByte (· ^^^ imm) s

/-! ### Rotates and shifts by one: T takes the bit shifted out -/

/-- `ROTL Rn` (R305). -/
def execRotl (n : Reg) (s : State) : Result State := .next (s.setRegT n (rotateLeft (s.reg n))).simple

/-- `ROTR Rn` (R306). -/
def execRotr (n : Reg) (s : State) : Result State := .next (s.setRegT n (rotateRight (s.reg n))).simple

/-- `ROTCL Rn` (R307). -/
def execRotcl (n : Reg) (s : State) : Result State :=
  .next (s.setRegT n (rotateLeftT (s.reg n) s.cpu.sr.t)).simple

/-- `ROTCR Rn` (R308). -/
def execRotcr (n : Reg) (s : State) : Result State :=
  .next (s.setRegT n (rotateRightT (s.reg n) s.cpu.sr.t)).simple

/-- `SHAL Rn` (R309). -/
def execShal (n : Reg) (s : State) : Result State := .next (s.setRegT n (shiftLeft (s.reg n))).simple

/-- `SHAR Rn` (R310). -/
def execShar (n : Reg) (s : State) : Result State := .next (s.setRegT n (shiftRightArith (s.reg n))).simple

/-- `SHLL Rn` (R311). -/
def execShll (n : Reg) (s : State) : Result State := .next (s.setRegT n (shiftLeft (s.reg n))).simple

/-- `SHLR Rn` (R312). -/
def execShlr (n : Reg) (s : State) : Result State := .next (s.setRegT n (shiftRight (s.reg n))).simple

/-! ### Shifts by 2, 8 and 16: T unchanged -/

/-- `SHLL2 Rn` (R313). -/
def execShll2 (n : Reg) (s : State) : Result State := .next (s.setReg n (s.reg n <<< 2)).simple

/-- `SHLR2 Rn` (R314). -/
def execShlr2 (n : Reg) (s : State) : Result State := .next (s.setReg n (s.reg n >>> 2)).simple

/-- `SHLL8 Rn` (R315). -/
def execShll8 (n : Reg) (s : State) : Result State := .next (s.setReg n (s.reg n <<< 8)).simple

/-- `SHLR8 Rn` (R316). -/
def execShlr8 (n : Reg) (s : State) : Result State := .next (s.setReg n (s.reg n >>> 8)).simple

/-- `SHLL16 Rn` (R317). -/
def execShll16 (n : Reg) (s : State) : Result State := .next (s.setReg n (s.reg n <<< 16)).simple

/-- `SHLR16 Rn` (R318). -/
def execShlr16 (n : Reg) (s : State) : Result State := .next (s.setReg n (s.reg n >>> 16)).simple

end Sys2Proof.Machine
end

