-- ==== Sys2Proof/Machine/System.lean ====
section
/-!
DEFINITION. The system control instructions (46_sh2_system.md) but `RTE`, whose delay slot puts it in
Machine/Branch.lean. There is one privilege level: each of them runs in any context (R350 (a), R550).
-/

namespace Sys2Proof.Machine

/-- A longword pushed and a cost: `STC.L` and `STS.L` (R372 to R374, R378 to R380). -/
def storePush (n : Reg) (v : Word) (row : CycleRow) (s : State) : Result State :=
  andThen (pushLong n v s) fun s => .next (s.advance row)

/-- A longword popped and given to a register: `LDC.L` and `LDS.L` (R356 to R358, R362 to R364). -/
def loadPop (m : Reg) (put : State → Word → State) (row : CycleRow) (s : State) : Result State :=
  andThen (popLong m s) fun (v, s) => .next ((put s v).advance row)

/-! ### Flag and accumulator clear -/

/-- `CLRT` (R351). -/
def execClrt (s : State) : Result State := .next (s.setT false).simple

/-- `CLRMAC` (R352). -/
def execClrmac (s : State) : Result State := .next ((s.setMach 0).setMacl 0).simple

/-- `SETT` (R368). -/
def execSett (s : State) : Result State := .next (s.setT true).simple

/-! ### Loads of control registers -/

/-- `LDC Rm,SR` (R353). -/
def execLdcSr (m : Reg) (s : State) : Result State := .next (s.setSr (SR.ofWord (s.reg m))).simple

/-- `LDC Rm,GBR` (R354). -/
def execLdcGbr (m : Reg) (s : State) : Result State := .next (s.setGbr (s.reg m)).simple

/-- `LDC Rm,VBR` (R355). -/
def execLdcVbr (m : Reg) (s : State) : Result State := .next (s.setVbr (s.reg m)).simple

/-- `LDC.L @Rm+,SR` (R356). -/
def execLdclSr (m : Reg) (s : State) : Result State := loadPop m (fun s v => s.setSr (SR.ofWord v)) .loadControl s

/-- `LDC.L @Rm+,GBR` (R357). -/
def execLdclGbr (m : Reg) (s : State) : Result State := loadPop m State.setGbr .loadControl s

/-- `LDC.L @Rm+,VBR` (R358). -/
def execLdclVbr (m : Reg) (s : State) : Result State := loadPop m State.setVbr .loadControl s

/-! ### Loads of system registers -/

/-- `LDS Rm,MACH` (R359). -/
def execLdsMach (m : Reg) (s : State) : Result State := .next (s.setMach (s.reg m)).simple

/-- `LDS Rm,MACL` (R360). -/
def execLdsMacl (m : Reg) (s : State) : Result State := .next (s.setMacl (s.reg m)).simple

/-- `LDS Rm,PR` (R361). -/
def execLdsPr (m : Reg) (s : State) : Result State := .next (s.setPr (s.reg m)).simple

/-- `LDS.L @Rm+,MACH` (R362). -/
def execLdslMach (m : Reg) (s : State) : Result State := loadPop m State.setMach .simple s

/-- `LDS.L @Rm+,MACL` (R363). -/
def execLdslMacl (m : Reg) (s : State) : Result State := loadPop m State.setMacl .simple s

/-- `LDS.L @Rm+,PR` (R364). -/
def execLdslPr (m : Reg) (s : State) : Result State := loadPop m State.setPr .simple s

/-! ### No operation, trap, sleep -/

/-- `NOP` (R365). -/
def execNop (s : State) : Result State := .next s.simple

/-- `TRAPA #imm` (R366): the exception of vector `imm`, returning after the instruction; SR and the interrupt
bookkeeping are unchanged, eight cycles. -/
def execTrapa (imm : Byte) (s : State) : Result State :=
  takeException imm (s.cpu.pc + 2) id (s.cost .trap) s

/-- `SLEEP` (R367). -/
def execSleep (s : State) : Result State :=
  .next ((s.mapCpu fun c => { c with sleeping := true }).advance .sleep)

/-! ### Stores of control registers -/

/-- `STC SR,Rn` (R369). -/
def execStcSr (n : Reg) (s : State) : Result State := .next (s.setReg n s.cpu.sr.toWord).simple

/-- `STC GBR,Rn` (R370). -/
def execStcGbr (n : Reg) (s : State) : Result State := .next (s.setReg n s.cpu.gbr).simple

/-- `STC VBR,Rn` (R371). -/
def execStcVbr (n : Reg) (s : State) : Result State := .next (s.setReg n s.cpu.vbr).simple

/-- `STC.L SR,@-Rn` (R372). -/
def execStclSr (n : Reg) (s : State) : Result State := storePush n s.cpu.sr.toWord .storeControl s

/-- `STC.L GBR,@-Rn` (R373). -/
def execStclGbr (n : Reg) (s : State) : Result State := storePush n s.cpu.gbr .storeControl s

/-- `STC.L VBR,@-Rn` (R374). -/
def execStclVbr (n : Reg) (s : State) : Result State := storePush n s.cpu.vbr .storeControl s

/-! ### Stores of system registers -/

/-- `STS MACH,Rn` (R375). -/
def execStsMach (n : Reg) (s : State) : Result State := .next (s.setReg n s.cpu.mach).simple

/-- `STS MACL,Rn` (R376). -/
def execStsMacl (n : Reg) (s : State) : Result State := .next (s.setReg n s.cpu.macl).simple

/-- `STS PR,Rn` (R377). -/
def execStsPr (n : Reg) (s : State) : Result State := .next (s.setReg n s.cpu.pr).simple

/-- `STS.L MACH,@-Rn` (R378). -/
def execStslMach (n : Reg) (s : State) : Result State := storePush n s.cpu.mach .simple s

/-- `STS.L MACL,@-Rn` (R379). -/
def execStslMacl (n : Reg) (s : State) : Result State := storePush n s.cpu.macl .simple s

/-- `STS.L PR,@-Rn` (R380). -/
def execStslPr (n : Reg) (s : State) : Result State := storePush n s.cpu.pr .simple s

end Sys2Proof.Machine
end

