-- ==== Sys2Proof/WellFormed.lean ====
section
/-!
DEFINITION. What well-formed code is. A single instruction term needs no check: the types of its operands already have
exactly the widths of its fields (R121, R122), so every term of `Instr` is encodable. What code must still obey is the
delay-slot obligation of R581: the instruction that stands after a delayed branch is neither one of the thirteen
classes of R180 nor a PC-relative form (R185).
-/

namespace Sys2Proof

/-- The instructions that execute the following instruction before they take effect on the pc (R176). `BT/S` and
`BF/S` do so when their condition holds. -/
def Instr.isDelayedBranch : Instr → Bool
  | .bra _ | .bsr _ | .braf _ | .bsrf _ | .jmp _ | .jsr _ | .rts | .rte | .bts _ | .bfs _ => true
  | _ => false

/-- The thirteen instructions that are illegal in a delay slot (R180). -/
def Instr.isIllegalInSlot : Instr → Bool
  | .bsrf _ | .braf _ | .rts | .rte | .jsr _ | .jmp _ | .bt _ | .bf _ | .bts _ | .bfs _ | .bra _ | .bsr _
  | .trapa _ => true
  | _ => false

/-- The three instructions whose operand is the PC, which have no meaning in a delay slot (R185). -/
def Instr.isPcRelative : Instr → Bool
  | .movwLoadPc _ _ | .movlLoadPc _ _ | .mova _ => true
  | _ => false

/-- The instruction may stand in a delay slot (R581 (b) and (c)). -/
def Instr.legalInSlot (i : Instr) : Bool :=
  !i.isIllegalInSlot && !i.isPcRelative

/-- Instructions that stand one after another obey R581: whatever follows a delayed branch may stand in a slot, and
the last one is not a delayed branch with nothing in its slot. -/
def Code.wellFormed : List Instr → Bool
  | [] => true
  | [i] => !i.isDelayedBranch
  | i :: j :: rest => (!i.isDelayedBranch || j.legalInSlot) && Code.wellFormed (j :: rest)

end Sys2Proof
end

