-- ==== Sys2Proof/Machine/Slot.lean ====
section
/-!
DEFINITION. Delay slots (41_sh2_dispatch.md R176 to R187). A delayed branch captures its target and makes its writes,
then the slot instruction runs inside the same step, then the pc is committed (R184). `flowOf` says what an
instruction does up to its own slot; `runSlot` is the source's `delaySlot`.
-/

namespace Sys2Proof.Machine

/-- What an instruction has done when its own delay slot, if it has one, is due. -/
inductive Flow
  /-- The instruction is complete. -/
  | done (s : State)
  /-- A delayed branch is taken: its state after the capture, its target, and its own cost (R184 step 1). -/
  | slot (s : State) (target : Word) (cost : Nat)
deriving DecidableEq, Repr

/-- How the instruction in a slot ended. -/
inductive SlotEnd
  | completed (s : State)
  /-- The emulation has halted: the outer branch does not commit (R181, R187). -/
  | halted (s : State)
deriving DecidableEq, Repr

/-- An instruction without a delay slot. -/
def complete (r : Result State) : Result Flow := andThen r fun s => .next (.done s)

/-! ### The conditional branches without a slot -/

/-- `BF disp` (R331). -/
def execBf (disp : Byte) (s : State) : Result State :=
  if s.cpu.sr.t then .next (s.advance .branchNotTaken) else .next ((s.setPc (branchTarget disp s)).setCycles (s.cost .branchTaken))

/-- `BT disp` (R333). -/
def execBt (disp : Byte) (s : State) : Result State :=
  if s.cpu.sr.t then .next ((s.setPc (branchTarget disp s)).setCycles (s.cost .branchTaken)) else .next (s.advance .branchNotTaken)

/-! ### The capture phase of the delayed branches (R184 step 1) -/

/-- `PR <- pc + 4`: the link of a call, written before the slot runs (R330 (c)). -/
def State.link (s : State) : State := s.setPr (s.cpu.pc + 4)

/-- `BRA disp` (R335). -/
def captureBra (disp : BitVec 12) (s : State) : Result Flow := .next (.slot s (branchTarget disp s) (s.cost .jump))

/-- `BSR disp` (R337). -/
def captureBsr (disp : BitVec 12) (s : State) : Result Flow := .next (.slot s.link (branchTarget disp s) (s.cost .jump))

/-- `BRAF Rm` (R336). -/
def captureBraf (m : Reg) (s : State) : Result Flow := .next (.slot s (registerTarget m s) (s.cost .jump))

/-- `BSRF Rm` (R338). -/
def captureBsrf (m : Reg) (s : State) : Result Flow := .next (.slot s.link (registerTarget m s) (s.cost .jump))

/-- `JMP @Rm` (R339). -/
def captureJmp (m : Reg) (s : State) : Result Flow := .next (.slot s (s.reg m) (s.cost .jump))

/-- `JSR @Rm` (R340). -/
def captureJsr (m : Reg) (s : State) : Result Flow := .next (.slot s.link (s.reg m) (s.cost .jump))

/-- `RTS` (R341). -/
def captureRts (s : State) : Result Flow := .next (.slot s s.cpu.pr (s.cost .jump))

/-- `RTE` (R381): the two pops and the bookkeeping come before the slot; its own cost is that of its row. -/
def captureRte (s : State) : Result Flow :=
  andThen (returnFromException s) fun (target, s) => .next (.slot s target (s.cost .returnException))

/-- `BT/S disp` (R334): not taken, it has no slot (R177). -/
def captureBts (disp : Byte) (s : State) : Result Flow :=
  if s.cpu.sr.t then .next (.slot s (branchTarget disp s) (s.cost .slotBranchTaken)) else .next (.done (s.advance .slotBranchNotTaken))

/-- `BF/S disp` (R332). -/
def captureBfs (disp : Byte) (s : State) : Result Flow :=
  if s.cpu.sr.t then .next (.done (s.advance .slotBranchNotTaken)) else .next (.slot s (branchTarget disp s) (s.cost .slotBranchTaken))

/-- What an instruction does up to its own delay slot. -/
def flowOf (i : Instr) (s : State) : Result Flow :=
  match i with
  | .stcSr n => complete (execStcSr n s)
  | .bsrf m => captureBsrf m s
  | .movbStoreIdx m n => complete (execMovbStoreIdx m n s)
  | .movwStoreIdx m n => complete (execMovwStoreIdx m n s)
  | .movlStoreIdx m n => complete (execMovlStoreIdx m n s)
  | .mull m n => complete (execMull m n s)
  | .clrt => complete (execClrt s)
  | .nop => complete (execNop s)
  | .stsMach n => complete (execStsMach n s)
  | .rts => captureRts s
  | .movbLoadIdx m n => complete (execMovbLoadIdx m n s)
  | .movwLoadIdx m n => complete (execMovwLoadIdx m n s)
  | .movlLoadIdx m n => complete (execMovlLoadIdx m n s)
  | .macL m n => complete (execMacL m n s)
  | .stcGbr n => complete (execStcGbr n s)
  | .sett => complete (execSett s)
  | .div0u => complete (execDiv0u s)
  | .stsMacl n => complete (execStsMacl n s)
  | .sleep => complete (execSleep s)
  | .stcVbr n => complete (execStcVbr n s)
  | .braf m => captureBraf m s
  | .clrmac => complete (execClrmac s)
  | .movt n => complete (execMovt n s)
  | .stsPr n => complete (execStsPr n s)
  | .rte => captureRte s
  | .movlStoreDisp m disp n => complete (execMovlStoreDisp m disp n s)
  | .movbStore m n => complete (execMovbStore m n s)
  | .movwStore m n => complete (execMovwStore m n s)
  | .movlStore m n => complete (execMovlStore m n s)
  | .movbPush m n => complete (execMovbPush m n s)
  | .movwPush m n => complete (execMovwPush m n s)
  | .movlPush m n => complete (execMovlPush m n s)
  | .div0s m n => complete (execDiv0s m n s)
  | .tstReg m n => complete (execTstReg m n s)
  | .andReg m n => complete (execAndReg m n s)
  | .xorReg m n => complete (execXorReg m n s)
  | .orReg m n => complete (execOrReg m n s)
  | .cmpStr m n => complete (execCmpStr m n s)
  | .xtrct m n => complete (execXtrct m n s)
  | .muluw m n => complete (execMuluw m n s)
  | .mulsw m n => complete (execMulsw m n s)
  | .cmpEqReg m n => complete (execCmpEqReg m n s)
  | .cmpHs m n => complete (execCmpHs m n s)
  | .cmpGe m n => complete (execCmpGe m n s)
  | .div1 m n => complete (execDiv1 m n s)
  | .dmulul m n => complete (execDmulul m n s)
  | .cmpHi m n => complete (execCmpHi m n s)
  | .cmpGt m n => complete (execCmpGt m n s)
  | .subReg m n => complete (execSubReg m n s)
  | .subc m n => complete (execSubc m n s)
  | .subv m n => complete (execSubv m n s)
  | .addReg m n => complete (execAddReg m n s)
  | .dmulsl m n => complete (execDmulsl m n s)
  | .addc m n => complete (execAddc m n s)
  | .addv m n => complete (execAddv m n s)
  | .shll n => complete (execShll n s)
  | .shlr n => complete (execShlr n s)
  | .stslMach n => complete (execStslMach n s)
  | .stclSr n => complete (execStclSr n s)
  | .rotl n => complete (execRotl n s)
  | .rotr n => complete (execRotr n s)
  | .ldslMach m => complete (execLdslMach m s)
  | .ldclSr m => complete (execLdclSr m s)
  | .shll2 n => complete (execShll2 n s)
  | .shlr2 n => complete (execShlr2 n s)
  | .ldsMach m => complete (execLdsMach m s)
  | .jsr m => captureJsr m s
  | .ldcSr m => complete (execLdcSr m s)
  | .macW m n => complete (execMacW m n s)
  | .dt n => complete (execDt n s)
  | .cmpPz n => complete (execCmpPz n s)
  | .stslMacl n => complete (execStslMacl n s)
  | .stclGbr n => complete (execStclGbr n s)
  | .cmpPl n => complete (execCmpPl n s)
  | .ldslMacl m => complete (execLdslMacl m s)
  | .ldclGbr m => complete (execLdclGbr m s)
  | .shll8 n => complete (execShll8 n s)
  | .shlr8 n => complete (execShlr8 n s)
  | .ldsMacl m => complete (execLdsMacl m s)
  | .tasb n => complete (execTasb n s)
  | .ldcGbr m => complete (execLdcGbr m s)
  | .shal n => complete (execShal n s)
  | .shar n => complete (execShar n s)
  | .stslPr n => complete (execStslPr n s)
  | .stclVbr n => complete (execStclVbr n s)
  | .rotcl n => complete (execRotcl n s)
  | .rotcr n => complete (execRotcr n s)
  | .ldslPr m => complete (execLdslPr m s)
  | .ldclVbr m => complete (execLdclVbr m s)
  | .shll16 n => complete (execShll16 n s)
  | .shlr16 n => complete (execShlr16 n s)
  | .ldsPr m => complete (execLdsPr m s)
  | .jmp m => captureJmp m s
  | .ldcVbr m => complete (execLdcVbr m s)
  | .movlLoadDisp disp m n => complete (execMovlLoadDisp disp m n s)
  | .movbLoad m n => complete (execMovbLoad m n s)
  | .movwLoad m n => complete (execMovwLoad m n s)
  | .movlLoad m n => complete (execMovlLoad m n s)
  | .movReg m n => complete (execMovReg m n s)
  | .movbPop m n => complete (execMovbPop m n s)
  | .movwPop m n => complete (execMovwPop m n s)
  | .movlPop m n => complete (execMovlPop m n s)
  | .notReg m n => complete (execNotReg m n s)
  | .swapb m n => complete (execSwapb m n s)
  | .swapw m n => complete (execSwapw m n s)
  | .negc m n => complete (execNegc m n s)
  | .negReg m n => complete (execNegReg m n s)
  | .extub m n => complete (execExtub m n s)
  | .extuw m n => complete (execExtuw m n s)
  | .extsb m n => complete (execExtsb m n s)
  | .extsw m n => complete (execExtsw m n s)
  | .addImm imm n => complete (execAddImm imm n s)
  | .movbStoreDisp disp n => complete (execMovbStoreDisp disp n s)
  | .movwStoreDisp disp n => complete (execMovwStoreDisp disp n s)
  | .movbLoadDisp disp m => complete (execMovbLoadDisp disp m s)
  | .movwLoadDisp disp m => complete (execMovwLoadDisp disp m s)
  | .cmpEqImm imm => complete (execCmpEqImm imm s)
  | .bt disp => complete (execBt disp s)
  | .bf disp => complete (execBf disp s)
  | .bts disp => captureBts disp s
  | .bfs disp => captureBfs disp s
  | .movwLoadPc disp n => complete (execMovwLoadPc disp n s)
  | .bra disp => captureBra disp s
  | .bsr disp => captureBsr disp s
  | .movbStoreGbr disp => complete (execMovbStoreGbr disp s)
  | .movwStoreGbr disp => complete (execMovwStoreGbr disp s)
  | .movlStoreGbr disp => complete (execMovlStoreGbr disp s)
  | .trapa imm => complete (execTrapa imm s)
  | .movbLoadGbr disp => complete (execMovbLoadGbr disp s)
  | .movwLoadGbr disp => complete (execMovwLoadGbr disp s)
  | .movlLoadGbr disp => complete (execMovlLoadGbr disp s)
  | .mova disp => complete (execMova disp s)
  | .tstImm imm => complete (execTstImm imm s)
  | .andImm imm => complete (execAndImm imm s)
  | .xorImm imm => complete (execXorImm imm s)
  | .orImm imm => complete (execOrImm imm s)
  | .tstbGbr imm => complete (execTstbGbr imm s)
  | .andbGbr imm => complete (execAndbGbr imm s)
  | .xorbGbr imm => complete (execXorbGbr imm s)
  | .orbGbr imm => complete (execOrbGbr imm s)
  | .movlLoadPc disp n => complete (execMovlLoadPc disp n s)
  | .movImm imm n => complete (execMovImm imm n s)

/-! ### The slot -/

/-- The commit of a taken delayed branch: the pc, and its own cost added to the slot's (R184 step 3, R186). -/
def State.commit (s : State) (target : Word) (cost : Nat) : State :=
  s.mapCpu fun c => { c with pc := target, cyclesElapsed := cost + c.cyclesElapsed }

/-- The rest of an instruction's step: nothing, or its slot at `slotAddr` and the commit. -/
def finishFlow (run : Word → State → Result SlotEnd) (slotAddr : Word) : Flow → Result SlotEnd
  | .done s => .next (.completed s)
  | .slot s target cost =>
    andThen (run slotAddr s) fun
      | .completed s => .next (.completed (s.commit target cost))
      | .halted s    => .next (.halted s)

/-- How deep slots may nest while the power-on quirk lets a branch stand in a slot (R183; log 10). -/
def slotFuel : Nat := 2147483647 + 1

/-- A PC-relative instruction in a slot, by the parameter `PCREL_IN_SLOT` (R185, U4). -/
def pcRelativeSlot : PcRelInSlot → Word → Result SlotEnd
  | .fault, addr => .fault (.pcRelativeInSlot addr)

/-- `Slot(addr)` (R178): fetch; the illegal-in-slot check unless the power-on quirk is set (R180, R183); then the
instruction runs with its own address as pc (R185), where a PC-relative form has no meaning. A word that is no
instruction halts as anywhere (R182). -/
def runSlot : Nat → Word → State → Result SlotEnd
  | 0, addr, _ => .fault (.slotChainTooDeep addr)
  | fuel + 1, addr, s =>
    if addr.toNat % 2 ≠ 0 then .fault (.misalignedFetch addr) else
    andThen (memRead16 addr s) fun (w, s) =>
    if !s.cpu.porSlotQuirk && illegalInSlotWord w then
      .next (.halted (s.halt .illegalSlotInstruction w addr))
    else
      match decodeWord w with
      | none   => .next (.halted ((s.setPc addr).halt .badOpcode w addr))
      | some i =>
        if i.isPcRelative then pcRelativeSlot s.config.pcRelInSlot addr
        else andThen (flowOf i (s.setPc addr)) (finishFlow (runSlot fuel) (addr + 2))

/-- The state a slot's end leaves. -/
def SlotEnd.state : SlotEnd → State
  | .completed s => s
  | .halted s    => s

/-- The whole step of a delayed branch: its capture, its slot at `pc + 2`, its commit (R184). -/
def delayedBranch (capture : State → Result Flow) (s : State) : Result State :=
  andThen (capture s) fun flow =>
  andThen (finishFlow (runSlot slotFuel) (s.cpu.pc + 2) flow) fun e => .next e.state

end Sys2Proof.Machine
end

