-- ==== Sys2Proof/Machine/Branch.lean ====
section
/-!
DEFINITION. The delayed branches (45_sh2_branch.md) and `RTE` (46_sh2_system.md R381), each as its capture phase
followed by its slot and its commit. `BT` and `BF`, which have no slot, are in Machine/Slot.lean.
-/

namespace Sys2Proof.Machine

/-- `BSRF Rm` (R338). -/
def execBsrf (m : Reg) (s : State) : Result State := delayedBranch (captureBsrf m) s

/-- `RTS` (R341). -/
def execRts (s : State) : Result State := delayedBranch captureRts s

/-- `BRAF Rm` (R336). -/
def execBraf (m : Reg) (s : State) : Result State := delayedBranch (captureBraf m) s

/-- `RTE` (R381). -/
def execRte (s : State) : Result State := delayedBranch captureRte s

/-- `JSR @Rm` (R340). -/
def execJsr (m : Reg) (s : State) : Result State := delayedBranch (captureJsr m) s

/-- `JMP @Rm` (R339). -/
def execJmp (m : Reg) (s : State) : Result State := delayedBranch (captureJmp m) s

/-- `BT/S disp` (R334). -/
def execBts (disp : BitVec 8) (s : State) : Result State := delayedBranch (captureBts disp) s

/-- `BF/S disp` (R332). -/
def execBfs (disp : BitVec 8) (s : State) : Result State := delayedBranch (captureBfs disp) s

/-- `BRA disp` (R335). -/
def execBra (disp : BitVec 12) (s : State) : Result State := delayedBranch (captureBra disp) s

/-- `BSR disp` (R337). -/
def execBsr (disp : BitVec 12) (s : State) : Result State := delayedBranch (captureBsr disp) s

end Sys2Proof.Machine
end

