-- ==== Sys2Proof/Machine/Dispatch.lean ====
section
/-! DEFINITION. The dispatch: one arm for each instruction, each one call of its meaning. -/

namespace Sys2Proof.Machine

def exec (i : Instr) (s : State) : Host.Outcome State Fault Refusal :=
  match i with
  | .stcSr n => Sys2Proof.Machine.execStcSr n s
  | .bsrf m => Sys2Proof.Machine.execBsrf m s
  | .movbStoreIdx m n => Sys2Proof.Machine.execMovbStoreIdx m n s
  | .movwStoreIdx m n => Sys2Proof.Machine.execMovwStoreIdx m n s
  | .movlStoreIdx m n => Sys2Proof.Machine.execMovlStoreIdx m n s
  | .mull m n => Sys2Proof.Machine.execMull m n s
  | .clrt => Sys2Proof.Machine.execClrt s
  | .nop => Sys2Proof.Machine.execNop s
  | .stsMach n => Sys2Proof.Machine.execStsMach n s
  | .rts => Sys2Proof.Machine.execRts s
  | .movbLoadIdx m n => Sys2Proof.Machine.execMovbLoadIdx m n s
  | .movwLoadIdx m n => Sys2Proof.Machine.execMovwLoadIdx m n s
  | .movlLoadIdx m n => Sys2Proof.Machine.execMovlLoadIdx m n s
  | .macL m n => Sys2Proof.Machine.execMacL m n s
  | .stcGbr n => Sys2Proof.Machine.execStcGbr n s
  | .sett => Sys2Proof.Machine.execSett s
  | .div0u => Sys2Proof.Machine.execDiv0u s
  | .stsMacl n => Sys2Proof.Machine.execStsMacl n s
  | .sleep => Sys2Proof.Machine.execSleep s
  | .stcVbr n => Sys2Proof.Machine.execStcVbr n s
  | .braf m => Sys2Proof.Machine.execBraf m s
  | .clrmac => Sys2Proof.Machine.execClrmac s
  | .movt n => Sys2Proof.Machine.execMovt n s
  | .stsPr n => Sys2Proof.Machine.execStsPr n s
  | .rte => Sys2Proof.Machine.execRte s
  | .movlStoreDisp m disp n => Sys2Proof.Machine.execMovlStoreDisp m disp n s
  | .movbStore m n => Sys2Proof.Machine.execMovbStore m n s
  | .movwStore m n => Sys2Proof.Machine.execMovwStore m n s
  | .movlStore m n => Sys2Proof.Machine.execMovlStore m n s
  | .movbPush m n => Sys2Proof.Machine.execMovbPush m n s
  | .movwPush m n => Sys2Proof.Machine.execMovwPush m n s
  | .movlPush m n => Sys2Proof.Machine.execMovlPush m n s
  | .div0s m n => Sys2Proof.Machine.execDiv0s m n s
  | .tstReg m n => Sys2Proof.Machine.execTstReg m n s
  | .andReg m n => Sys2Proof.Machine.execAndReg m n s
  | .xorReg m n => Sys2Proof.Machine.execXorReg m n s
  | .orReg m n => Sys2Proof.Machine.execOrReg m n s
  | .cmpStr m n => Sys2Proof.Machine.execCmpStr m n s
  | .xtrct m n => Sys2Proof.Machine.execXtrct m n s
  | .muluw m n => Sys2Proof.Machine.execMuluw m n s
  | .mulsw m n => Sys2Proof.Machine.execMulsw m n s
  | .cmpEqReg m n => Sys2Proof.Machine.execCmpEqReg m n s
  | .cmpHs m n => Sys2Proof.Machine.execCmpHs m n s
  | .cmpGe m n => Sys2Proof.Machine.execCmpGe m n s
  | .div1 m n => Sys2Proof.Machine.execDiv1 m n s
  | .dmulul m n => Sys2Proof.Machine.execDmulul m n s
  | .cmpHi m n => Sys2Proof.Machine.execCmpHi m n s
  | .cmpGt m n => Sys2Proof.Machine.execCmpGt m n s
  | .subReg m n => Sys2Proof.Machine.execSubReg m n s
  | .subc m n => Sys2Proof.Machine.execSubc m n s
  | .subv m n => Sys2Proof.Machine.execSubv m n s
  | .addReg m n => Sys2Proof.Machine.execAddReg m n s
  | .dmulsl m n => Sys2Proof.Machine.execDmulsl m n s
  | .addc m n => Sys2Proof.Machine.execAddc m n s
  | .addv m n => Sys2Proof.Machine.execAddv m n s
  | .shll n => Sys2Proof.Machine.execShll n s
  | .shlr n => Sys2Proof.Machine.execShlr n s
  | .stslMach n => Sys2Proof.Machine.execStslMach n s
  | .stclSr n => Sys2Proof.Machine.execStclSr n s
  | .rotl n => Sys2Proof.Machine.execRotl n s
  | .rotr n => Sys2Proof.Machine.execRotr n s
  | .ldslMach m => Sys2Proof.Machine.execLdslMach m s
  | .ldclSr m => Sys2Proof.Machine.execLdclSr m s
  | .shll2 n => Sys2Proof.Machine.execShll2 n s
  | .shlr2 n => Sys2Proof.Machine.execShlr2 n s
  | .ldsMach m => Sys2Proof.Machine.execLdsMach m s
  | .jsr m => Sys2Proof.Machine.execJsr m s
  | .ldcSr m => Sys2Proof.Machine.execLdcSr m s
  | .macW m n => Sys2Proof.Machine.execMacW m n s
  | .dt n => Sys2Proof.Machine.execDt n s
  | .cmpPz n => Sys2Proof.Machine.execCmpPz n s
  | .stslMacl n => Sys2Proof.Machine.execStslMacl n s
  | .stclGbr n => Sys2Proof.Machine.execStclGbr n s
  | .cmpPl n => Sys2Proof.Machine.execCmpPl n s
  | .ldslMacl m => Sys2Proof.Machine.execLdslMacl m s
  | .ldclGbr m => Sys2Proof.Machine.execLdclGbr m s
  | .shll8 n => Sys2Proof.Machine.execShll8 n s
  | .shlr8 n => Sys2Proof.Machine.execShlr8 n s
  | .ldsMacl m => Sys2Proof.Machine.execLdsMacl m s
  | .tasb n => Sys2Proof.Machine.execTasb n s
  | .ldcGbr m => Sys2Proof.Machine.execLdcGbr m s
  | .shal n => Sys2Proof.Machine.execShal n s
  | .shar n => Sys2Proof.Machine.execShar n s
  | .stslPr n => Sys2Proof.Machine.execStslPr n s
  | .stclVbr n => Sys2Proof.Machine.execStclVbr n s
  | .rotcl n => Sys2Proof.Machine.execRotcl n s
  | .rotcr n => Sys2Proof.Machine.execRotcr n s
  | .ldslPr m => Sys2Proof.Machine.execLdslPr m s
  | .ldclVbr m => Sys2Proof.Machine.execLdclVbr m s
  | .shll16 n => Sys2Proof.Machine.execShll16 n s
  | .shlr16 n => Sys2Proof.Machine.execShlr16 n s
  | .ldsPr m => Sys2Proof.Machine.execLdsPr m s
  | .jmp m => Sys2Proof.Machine.execJmp m s
  | .ldcVbr m => Sys2Proof.Machine.execLdcVbr m s
  | .movlLoadDisp disp m n => Sys2Proof.Machine.execMovlLoadDisp disp m n s
  | .movbLoad m n => Sys2Proof.Machine.execMovbLoad m n s
  | .movwLoad m n => Sys2Proof.Machine.execMovwLoad m n s
  | .movlLoad m n => Sys2Proof.Machine.execMovlLoad m n s
  | .movReg m n => Sys2Proof.Machine.execMovReg m n s
  | .movbPop m n => Sys2Proof.Machine.execMovbPop m n s
  | .movwPop m n => Sys2Proof.Machine.execMovwPop m n s
  | .movlPop m n => Sys2Proof.Machine.execMovlPop m n s
  | .notReg m n => Sys2Proof.Machine.execNotReg m n s
  | .swapb m n => Sys2Proof.Machine.execSwapb m n s
  | .swapw m n => Sys2Proof.Machine.execSwapw m n s
  | .negc m n => Sys2Proof.Machine.execNegc m n s
  | .negReg m n => Sys2Proof.Machine.execNegReg m n s
  | .extub m n => Sys2Proof.Machine.execExtub m n s
  | .extuw m n => Sys2Proof.Machine.execExtuw m n s
  | .extsb m n => Sys2Proof.Machine.execExtsb m n s
  | .extsw m n => Sys2Proof.Machine.execExtsw m n s
  | .addImm imm n => Sys2Proof.Machine.execAddImm imm n s
  | .movbStoreDisp disp n => Sys2Proof.Machine.execMovbStoreDisp disp n s
  | .movwStoreDisp disp n => Sys2Proof.Machine.execMovwStoreDisp disp n s
  | .movbLoadDisp disp m => Sys2Proof.Machine.execMovbLoadDisp disp m s
  | .movwLoadDisp disp m => Sys2Proof.Machine.execMovwLoadDisp disp m s
  | .cmpEqImm imm => Sys2Proof.Machine.execCmpEqImm imm s
  | .bt disp => Sys2Proof.Machine.execBt disp s
  | .bf disp => Sys2Proof.Machine.execBf disp s
  | .bts disp => Sys2Proof.Machine.execBts disp s
  | .bfs disp => Sys2Proof.Machine.execBfs disp s
  | .movwLoadPc disp n => Sys2Proof.Machine.execMovwLoadPc disp n s
  | .bra disp => Sys2Proof.Machine.execBra disp s
  | .bsr disp => Sys2Proof.Machine.execBsr disp s
  | .movbStoreGbr disp => Sys2Proof.Machine.execMovbStoreGbr disp s
  | .movwStoreGbr disp => Sys2Proof.Machine.execMovwStoreGbr disp s
  | .movlStoreGbr disp => Sys2Proof.Machine.execMovlStoreGbr disp s
  | .trapa imm => Sys2Proof.Machine.execTrapa imm s
  | .movbLoadGbr disp => Sys2Proof.Machine.execMovbLoadGbr disp s
  | .movwLoadGbr disp => Sys2Proof.Machine.execMovwLoadGbr disp s
  | .movlLoadGbr disp => Sys2Proof.Machine.execMovlLoadGbr disp s
  | .mova disp => Sys2Proof.Machine.execMova disp s
  | .tstImm imm => Sys2Proof.Machine.execTstImm imm s
  | .andImm imm => Sys2Proof.Machine.execAndImm imm s
  | .xorImm imm => Sys2Proof.Machine.execXorImm imm s
  | .orImm imm => Sys2Proof.Machine.execOrImm imm s
  | .tstbGbr imm => Sys2Proof.Machine.execTstbGbr imm s
  | .andbGbr imm => Sys2Proof.Machine.execAndbGbr imm s
  | .xorbGbr imm => Sys2Proof.Machine.execXorbGbr imm s
  | .orbGbr imm => Sys2Proof.Machine.execOrbGbr imm s
  | .movlLoadPc disp n => Sys2Proof.Machine.execMovlLoadPc disp n s
  | .movImm imm n => Sys2Proof.Machine.execMovImm imm n s

end Sys2Proof.Machine
end

