-- ==== Sys2Proof/Machine/Scheduler.lean ====
section
/-!
DEFINITION. One step of the core (R100, R160): a call of the host if one is due, else an instruction step of the active
CPU. The host's calls (R8) are the reset entry points (R560), `run(cycles)`, `sendStartFactor`, `ScuRaise`,
`sendInterrupt`, the NMI pin, and the order to step a CPU.
-/

namespace Sys2Proof.Machine

/-! ### One instruction step of the active CPU (R160) -/

/-- The end of an instruction step: the power-on quirk is over (R160 item 8, R183). -/
def State.endStep (s : State) : State := s.mapCpu fun c => { c with porSlotQuirk := false }

/-- Fetch, decode and execute (R160 items 5 to 8). A word that matches no row halts with nothing changed (R174). -/
def runInstruction (s : State) : Result State :=
  let pc := s.cpu.pc
  andThen (memRead16 pc s) fun (w, s) =>
  match decodeWord w with
  | none   => .next (s.halt .badOpcode w pc)
  | some i => andThen (exec i s) fun s => .next s.endStep

/-- The step of the active CPU (R160 items 2 to 8, in the order of R505): an acceptable interrupt, then sleep (which
reports 0 cycles, R593), then an odd pc, then the instruction. -/
def cpuStep (s : State) : Result State :=
  match s.cpu.acceptable with
  | some d => acceptInterrupt d s
  | none =>
    if s.cpu.sleeping then .next (s.setCycles 0)
    else if s.cpu.pc.toNat % 2 ≠ 0 then .fault (.misalignedFetch s.cpu.pc)
    else runInstruction s

/-! ### The reset entry points (R560) -/

/-- The registers of `powerOnReset()` (R563): the two vectors, VBR, SR.I and the interrupt state as stated; what it
leaves unspecified takes free values (log 7). The on-chip latches are 0 (R561, log 3); the NMI pin is the host's. -/
def Cpu.powerOn (c : Cpu) (pc sp : Word) (free : Nat → Word) : Cpu :=
  let flags := free 19
  { Cpu.reset with
    r := Vector.ofFn fun n : Fin 16 => if n = 15 then sp else free n.val
    pc := pc
    sr := ⟨flags.getLsbD 9, flags.getLsbD 8, 15, flags.getLsbD 1, flags.getLsbD 0⟩
    gbr := free 15
    mach := free 16
    macl := free 17
    pr := free 18
    nmiPin := c.nmiPin }

/-- `powerOnReset()` of one SH2 (R563): vectors 0 and 1 are read through the bus. -/
def powerOnReset (c : CpuId) (s : State) : Result State :=
  andThen (busRead32 (.cpu c) 0x00000000 s) fun (pc, s) =>
  andThen (busRead32 (.cpu c) 0x00000004 s) fun (sp, s) =>
  let free := fun n => Config.freeWord (s.draws + n)
  .next { s.mapCpuOf c (fun cpu => cpu.powerOn pc sp free) with draws := s.draws + 20 }

/-- `reset()` of the SCU (R562). -/
def State.resetScu (s : State) : State := { s with scu := Scu.reset }

/-- `reset()` of the CD block (R445). -/
def State.resetCd (s : State) : State := { s with cd := Cd.reset s.config }

/-- The power-on reset of the whole core (R560): all three entry points, and the end of a stopped state (U30). Memory
keeps its contents. That it forgets the recorded halt is the model's choice: no rule clears the diagnostic (log 35). -/
def powerOnCore (s : State) : Result State :=
  let s := { s.resetScu.resetCd with emulationStopped := false, diagnostic := none }
  andThen (powerOnReset .master s) fun s => powerOnReset .slave s

/-! ### The host's calls -/

/-- One call of the host (R8). -/
def hostStep (a : HostAction) (s : State) : Result State :=
  match a with
  | .stepCpu c         => cpuStep { s with active := c }
  | .cdRun cycles      => .next { s with cd := s.cd.run s.config cycles }
  | .startFactor e     => sendStartFactor e s
  | .scuRaise src      => .next (s.scuRaise src)
  | .sendInterrupt c d => .next (s.sendInterrupt c d)
  | .nmiPin c level    => .next (s.mapCpuOf c fun cpu => { cpu with nmiPin := level })
  | .resetScu          => .next s.resetScu
  | .resetCd           => .next s.resetCd
  | .resetCpu c        => powerOnReset c s
  | .powerOn           => powerOnCore s

/-- One step of the core. Once `emulation_stopped` is set no agent steps (R9, R160 item 1): every step is refused, but
for the power-on reset of the whole core (U30). -/
def coreStep (s : State) : Result State :=
  match s.hostInputs with
  | [] => if s.emulationStopped then .refused .emulationStopped else cpuStep s
  | a :: rest =>
    if s.emulationStopped ∧ a ≠ .powerOn then .refused .emulationStopped
    else hostStep a { s with hostInputs := rest }

end Sys2Proof.Machine
end

