-- ==== Sys2Proof/Machine/Step.lean ====
section
/-!
DEFINITION. The step of the core, and where an instruction is put so that the very next step runs it.
-/

namespace Sys2Proof.Machine

/-- One step: a call of the host, or an instruction step of the active CPU (Machine/Scheduler.lean). -/
def step (s : State) : Host.Outcome State Fault Refusal := coreStep s

/-- The state with an instruction stored where the active CPU fetches its next one: its word, big-endian (R83), in the
storage that the pc leads to (R97), written as an image is, without regard to the read-only boot ROM. No host call is
due, the CPU is awake and the emulation runs, so that the next step fetches it (log 6). -/
def State.withFetchWord (s : State) (nbits w : Nat) : State :=
  let awake := s.mapCpu fun c => { c with sleeping := false }
  { awake with
    mem := s.mem.write16 (s.cpu.pc &&& 0x07FFFFFF).toNat (BitVec.ofNat 16 (w % 2 ^ nbits))
    hostInputs := []
    emulationStopped := false }

end Sys2Proof.Machine
end

