-- ==== Sys2Proof/Safety.lean ====
section
/-!
DEFINITION. The vocabulary of the statements: what a step leaves unchanged, what a load reads and a store leaves in
memory, written from the state's contents alone; the ends of a run (R595); and the invariants that every step keeps.
-/

namespace Sys2Proof.Machine

/-! ### Frames -/

/-- Everything but the active CPU is as before. -/
structure SameOutside (s t : State) : Prop where
  active : t.active = s.active
  other : t.other = s.other
  scu : t.scu = s.scu
  cd : t.cd = s.cd
  mem : t.mem = s.mem
  emulationStopped : t.emulationStopped = s.emulationStopped
  diagnostic : t.diagnostic = s.diagnostic
  hostInputs : t.hostInputs = s.hostInputs
  draws : t.draws = s.draws
  config : t.config = s.config

/-- Everything but the active CPU and the contents of storage is as before. -/
structure SameOutsideMemory (s t : State) : Prop where
  active : t.active = s.active
  other : t.other = s.other
  scu : t.scu = s.scu
  cd : t.cd = s.cd
  emulationStopped : t.emulationStopped = s.emulationStopped
  diagnostic : t.diagnostic = s.diagnostic
  hostInputs : t.hostInputs = s.hostInputs
  draws : t.draws = s.draws
  config : t.config = s.config

/-- A halt's frame: everything but the active CPU, `emulation_stopped`, the diagnostic and the count of free values is
as before. -/
structure SameButStopped (s t : State) : Prop where
  active : t.active = s.active
  other : t.other = s.other
  scu : t.scu = s.scu
  cd : t.cd = s.cd
  mem : t.mem = s.mem
  hostInputs : t.hostInputs = s.hostInputs
  config : t.config = s.config

/-- The active CPU at the next instruction, after one of this row of `CYCLES` (R591). -/
def State.after (s : State) (row : CycleRow) : Cpu := { s.cpu with pc := s.cpu.pc + 2, cyclesElapsed := s.cost row }

/-- The CPU at an address, after an instruction of this cost. -/
def Cpu.arrived (c : Cpu) (pc : Word) (cost : Nat) : Cpu := { c with pc := pc, cyclesElapsed := cost }

/-- The instruction completes, leaves this active CPU, and changes nothing else. -/
def RunsTo (i : Instr) (s : State) (c : Cpu) : Prop :=
  ∃ t, exec i s = .next t ∧ t.cpu = c ∧ SameOutside s t

/-- The instruction completes, leaves this active CPU and these contents of storage, and changes nothing else. -/
def RunsStoring (i : Instr) (s : State) (c : Cpu) (content : Nat → Byte) : Prop :=
  ∃ t, exec i s = .next t ∧ t.cpu = c ∧ SameOutsideMemory s t ∧ ∀ q, t.mem.read q = content q

/-- The instruction answers what its one access of the bus answers: the state after the access with this active CPU
and nothing else changed, or the same stop. -/
def Follows {α : Type} (i : Instr) (s : State) (access : Result α) (after : α → State) (cpu : α → Cpu) : Prop :=
  match access with
  | .next x    => ∃ t, exec i s = .next t ∧ t.cpu = cpu x ∧ SameOutside (after x) t
  | .fault f   => exec i s = .fault f
  | .refused r => exec i s = .refused r

/-- The instruction halts (R501): a next state with `emulation_stopped` set and this diagnostic, the active CPU as
given but for `cycles_elapsed`, which is open (R592). -/
def Halts (i : Instr) (s : State) (c : Cpu) (d : Diagnostic) : Prop :=
  ∃ t n, exec i s = .next t ∧ t.emulationStopped = true ∧ t.diagnostic = some d ∧
    t.cpu = { c with cyclesElapsed := n } ∧ SameButStopped s t

/-! ### What storage and unmapped addresses hold -/

/-- The address leads to storage or to no region, so that an access has no effect but on storage (R84 to R87). -/
def plainPlace (s : State) (addr : Word) : Bool :=
  match s.place addr with
  | .storage _ _ => true
  | .unmapped    => true
  | _            => false

/-- The byte at a plain address: storage's, or 0 where nothing is mapped (R84, R87). -/
def plainByte (s : State) (addr : Word) : Option Byte :=
  match s.place addr with
  | .storage p _ => some (s.mem.read p)
  | .unmapped    => some 0
  | _            => none

/-- The two bytes at an even plain address, the lower one in the high bits (R83, R85). -/
def plainHalf (s : State) (addr : Word) : Option Half :=
  if addr.toNat % 2 = 0 then
    match s.place addr with
    | .storage p _ => some (s.mem.read p ++ s.mem.read (p + 1))
    | .unmapped    => some 0
    | _            => none
  else none

/-- The four bytes at a plain address that is a multiple of 4 (R83, R85). -/
def plainLong (s : State) (addr : Word) : Option Word :=
  if addr.toNat % 4 = 0 then
    match s.place addr with
    | .storage p _ => some (s.mem.read p ++ s.mem.read (p + 1) ++ s.mem.read (p + 2) ++ s.mem.read (p + 3))
    | .unmapped    => some 0
    | _            => none
  else none

/-- Storage after some bytes are put from a physical address on, the most significant first. -/
def putBytes {n : Nat} (content : Nat → Byte) (p bytes : Nat) (v : BitVec n) : Nat → Byte := fun q =>
  if p ≤ q ∧ q < p + bytes then v.extractLsb' (8 * (p + bytes - 1 - q)) 8 else content q

/-- Storage after a store of some bytes at an address: writable storage takes them, read-only storage and unmapped
addresses drop them (R86, R87). -/
def stored {n : Nat} (s : State) (addr : Word) (bytes : Nat) (v : BitVec n) : Nat → Byte :=
  match s.place addr with
  | .storage p true => putBytes s.mem.read p bytes v
  | _               => s.mem.read

/-! ### Delayed branches -/

/-- The instruction is a delayed branch that is taken in this state, `RTE` among them, with its frame at a plain
address: the active CPU that its slot starts from but for the pc, the target that is captured, and the branch's own
cost (R184 step 1, R330 (c), R332, R334 to R341, R381). -/
inductive TakesSlot (s : State) : Instr → Cpu → Word → Nat → Prop
  | bra (d : BitVec 12) : TakesSlot s (.bra d) s.cpu (s.cpu.pc + (4 : Word) + (sext d <<< 1)) (s.cost .jump)
  | bsr (d : BitVec 12) : TakesSlot s (.bsr d) { s.cpu with pr := s.cpu.pc + 4 }
      (s.cpu.pc + (4 : Word) + (sext d <<< 1)) (s.cost .jump)
  | braf (m : Reg) : TakesSlot s (.braf m) s.cpu (s.cpu.pc + 4 + s.cpu.r.get m) (s.cost .jump)
  | bsrf (m : Reg) : TakesSlot s (.bsrf m) { s.cpu with pr := s.cpu.pc + 4 }
      (s.cpu.pc + 4 + s.cpu.r.get m) (s.cost .jump)
  | jmp (m : Reg) : TakesSlot s (.jmp m) s.cpu (s.cpu.r.get m) (s.cost .jump)
  | jsr (m : Reg) : TakesSlot s (.jsr m) { s.cpu with pr := s.cpu.pc + 4 } (s.cpu.r.get m) (s.cost .jump)
  | rts : TakesSlot s .rts s.cpu s.cpu.pr (s.cost .jump)
  | bts (d : Byte) : s.cpu.sr.t = true →
      TakesSlot s (.bts d) s.cpu (s.cpu.pc + (4 : Word) + (sext d <<< 1)) (s.cost .slotBranchTaken)
  | bfs (d : Byte) : s.cpu.sr.t = false →
      TakesSlot s (.bfs d) s.cpu (s.cpu.pc + (4 : Word) + (sext d <<< 1)) (s.cost .slotBranchTaken)
  | rte (target w : Word) (sr : SR) : plainLong s (s.cpu.r.get 15) = some target →
      plainLong s (s.cpu.r.get 15 + 4) = some w → sr.toWord = w &&& 0x000003F3 →
      TakesSlot s .rte
        { s.cpu with
          r := s.cpu.r.set 15 (s.cpu.r.get 15 + 8)
          sr := sr
          current := none
          levelInterrupted := match s.cpu.current with
            | none   => s.cpu.levelInterrupted
            | some d => s.cpu.levelInterrupted.set d.level false }
        target (s.cost .returnException)

/-! ### Devices -/

/-- The 16-bit registers of the interrupt controller, each with the bits that software can write (R43). -/
def intcHalves : List (Word × Half) :=
  [(0xFFFFFE60, 0xFF00), (0xFFFFFE62, 0x7F7F), (0xFFFFFE64, 0x7F7F), (0xFFFFFE66, 0x7F7F), (0xFFFFFE68, 0x7F00),
    (0xFFFFFEE0, 0x0101), (0xFFFFFEE2, 0xFFF0), (0xFFFFFEE4, 0x7F7F)]

/-- Its 32-bit registers (R43). -/
def intcWords : List Word := [0xFFFFFF0C, 0xFFFFFFA0, 0xFFFFFFA8]

/-- The address is in the on-chip block and in none of those registers (R44). -/
def onChipLatch (a : Word) : Bool :=
  0xFFFFFE00 ≤ a.toNat && intcHalves.all (fun r => !(r.1.toNat ≤ a.toNat && a.toNat < r.1.toNat + 2)) &&
    intcWords.all (fun r => !(r.toNat ≤ a.toNat && a.toNat < r.toNat + 4))

/-- No SCU register changes but the one at this offset, and nothing outside the SCU. -/
structure OnlyScuRegister (off : Nat) (s t : State) : Prop where
  frame : t = { s with scu := t.scu }
  queue : t.scu.queue = s.scu.queue
  others : ∀ b k w, s.place b = .scu k → k ≠ off → memRead32 b s = .next (w, s) → memRead32 b t = .next (w, t)

/-- The address of byte `k` of a source (R414, R415): groups of four, a read-add value apart in A-bus CS2, and elsewhere
one byte after the other. -/
def dmaReadAt (cfg : DmaConfig) (r : Word) (k : Nat) : Word :=
  r + BitVec.ofNat 32 (if 0x05800000 ≤ (r &&& 0x0FFFFFFF).toNat ∧ (r &&& 0x0FFFFFFF).toNat ≤ 0x058FFFFF
    then k / 4 * cfg.readAddValue + k % 4 else k)

/-- The address of byte `k` of a destination (R416): pairs, a write-add value apart on the B-bus in the corrected mode,
and elsewhere one byte after the other. -/
def dmaWriteAt (s : State) (cfg : DmaConfig) (w : Word) (k : Nat) : Word :=
  w + BitVec.ofNat 32 (if s.config.writeAddMode = .corrected ∧ getDmaBus s.config.rangeMode w = .bBus
    then k / 2 * cfg.writeAddValue + k % 2 else k)

/-- Every byte of the transfer leads where the bus answers the SCU (R88 and R7 refuse registers of devices). -/
structure DmaAnswers (s : State) (cfg : DmaConfig) (r w : Word) (count : Nat) : Prop where
  reads  : ∀ k, k < count → ∃ b, busRead8 .scu (dmaReadAt cfg r k) s = .next b
  writes : ∀ k, k < count → ∃ t, busWrite8 .scu (dmaWriteAt s cfg w k) 0 s = .next t

/-- What the SCU reads at an address when storage holds this: the byte of storage, and 0 where there is none (R87). -/
def byteIn (s : State) (content : Nat → Byte) (a : Word) : Byte :=
  match s.place a with
  | .storage p _ => content p
  | _            => 0

/-- Storage after the first bytes of a transfer, moved one by one in ascending order, so that a source that overlaps the
destination is read as it is by then (R414); what is not storage reads 0, and a write reaches writable storage alone. -/
def dmaContent (s : State) (cfg : DmaConfig) (r w : Word) : Nat → Nat → Byte
  | 0 => s.mem.read
  | k + 1 => fun q =>
    if s.place (dmaWriteAt s cfg w k) = .storage q true then byteIn s (dmaContent s cfg r w k) (dmaReadAt cfg r k)
    else dmaContent s cfg r w k q

/-- One descriptor of an indirect transfer, at `p`, with its bytes moved, or skipped where its destination is on no known
bus (R421, R422, R431): `raw` is its read word, and nothing but storage changes. -/
inductive DescriptorMoved (cfg : DmaConfig) (p raw : Word) (s u : State) : Prop
  | mk (len dst w : Word) (count : Nat) :
      plainLong s p = some len → plainLong s (p + 4) = some dst → plainLong s (p + 8) = some raw →
      w = dst &&& 0x07FFFFFF →
      count = (if getDmaBus s.config.rangeMode w = .unknownBus then 0
        else if len.setWidth 20 = 0 then s.config.dmaZeroCount else (len.setWidth 20).toNat) →
      DmaAnswers s cfg (raw &&& 0x07FFFFFF) w count →
      (∀ q, u.mem.read q = dmaContent s cfg (raw &&& 0x07FFFFFF) w count q) → u = { s with mem := u.mem } →
      DescriptorMoved cfg p raw s u

/-- A chain of `n` descriptors from `p` on, 12 bytes apart, of which the last alone, at `q`, has the end code in its read
word (R421, R425, R426): `t` is the state after their transfers, one after the other. -/
inductive DmaChain (cfg : DmaConfig) : Nat → State → Word → State → Word → Prop
  | last {s t : State} {p raw : Word} : DescriptorMoved cfg p raw s t → raw &&& s.config.dmaEndCode ≠ 0 →
      DmaChain cfg 1 s p t p
  | more {n : Nat} {s u t : State} {p q raw : Word} : DescriptorMoved cfg p raw s u →
      raw &&& s.config.dmaEndCode = 0 → DmaChain cfg n u (p + 12) t q → DmaChain cfg (n + 1) s p t q

/-- The completion of a transfer with this configuration (R410): the IST bit of its level is set, the end source is
sent to the master exactly if its IMS bit is 0 (R428, R522), the enable bit is cleared exactly for the DMA-start factor
(R430), the channel's address registers are these, and nothing else changes but storage. -/
structure DmaEnded (cfg : DmaConfig) (readAddr writeAddr : Word) (s t : State) : Prop where
  frame : t = { s with mem := t.mem, scu := t.scu, master := t.master }
  scu : t.scu = { s.scu with ist := s.scu.ist ||| (1#32 <<< (11 - cfg.level.val)), channels := t.scu.channels }
  otherChannels : ∀ l, l ≠ cfg.level → t.scu.channel l = s.scu.channel l
  channel : t.scu.channel cfg.level = { s.scu.channel cfg.level with
    readAddr := readAddr, writeAddr := writeAddr, enable := (t.scu.channel cfg.level).enable }
  cleared : cfg.startingFactorSelect = 7 → ∀ k, k < 32 → (t.scu.channel cfg.level).enable.getLsbD k =
    (k == 0 && (s.scu.channel cfg.level).enable.getLsbD 0)
  kept : cfg.startingFactorSelect ≠ 7 → (t.scu.channel cfg.level).enable = (s.scu.channel cfg.level).enable
  masked : s.scu.ims.getLsbD (11 - cfg.level.val) = true → t.master = s.master
  sent : ∀ src, (src, cfg.level) ∈ [(ScuSource.level0DmaEnd, 0), (.level1DmaEnd, 1), (.level2DmaEnd, 2)] →
    s.scu.ims.getLsbD (11 - cfg.level.val) = false → t.master = s.master.sendInterrupt (.scu src)

/-! ### The ends of a run (R595) -/

/-- The step was a halt: `emulation_stopped` is set. Never a normal end (R174, R595). -/
def State.stopped (s : State) : Prop := s.emulationStopped = true

/-- The stable sleep that is a legal end of a run: the active CPU sleeps, accepts nothing, and no call of the host is
due (R595). -/
def State.asleepForGood (s : State) : Prop :=
  ¬ s.stopped ∧ s.hostInputs = [] ∧ s.cpu.sleeping = true ∧ s.cpu.acceptable = none

/-- A step that ends neither in a fault nor in a refusal nor in a halt. -/
def safeStep (s t : State) : Prop := step s = .next t ∧ ¬ t.stopped

/-! ### Invariants -/

/-- R544 for one CPU: (a) one pending entry for each level at most and none of level 0; (b), (c) a level's flag is set
exactly when an entry of that level is pending or in service, and not both. -/
def Cpu.interruptsConsistent (c : Cpu) : Prop :=
  (c.pending.map Interrupt.level).Nodup ∧
  (∀ d ∈ c.pending, d.level ≠ 0) ∧
  (∀ l, c.levelFlag l = true ↔ (∃ d ∈ c.pending, d.level = l) ∨ (∃ d, c.current = some d ∧ d.level = l)) ∧
  (∀ d e, c.current = some d → e ∈ c.pending → e.level ≠ d.level)

/-- R544 for both CPUs. -/
def State.interruptsConsistent (s : State) : Prop :=
  s.master.interruptsConsistent ∧ s.slave.interruptsConsistent

/-- Storage and both on-chip latch blocks are in canonical form. -/
def State.memoryCanonical (s : State) : Prop :=
  s.mem.wf = true ∧ s.master.onChip.wf = true ∧ s.slave.onChip.wf = true

/-- The unassigned bits of the interrupt-controller registers read 0 (R43). -/
def Intc.reservedClear (r : Intc) : Prop :=
  r.iprb &&& 0x00FF = 0 ∧ r.vcra &&& 0x8080 = 0 ∧ r.vcrb &&& 0x8080 = 0 ∧ r.vcrc &&& 0x8080 = 0 ∧
  r.vcrd &&& 0x80FF = 0 ∧ r.icr &&& 0xFEFE = 0 ∧ r.ipra &&& 0x000F = 0 ∧ r.vcrwdt &&& 0x8080 = 0

/-- The unassigned bits of the registers of a DMA channel read 0 (R46 to R51). -/
def DmaChannel.reservedClear (c : DmaChannel) (p : Params) (level : Fin 3) : Prop :=
  c.readAddr &&& 0xF8000000 = 0 ∧ c.writeAddr &&& 0xF8000000 = 0 ∧
  c.count &&& ~~~p.dmaCountMask level = 0 ∧
  c.addValue &&& 0xFFFFFEF8 = 0 ∧ c.enable &&& 0xFFFFFEFE = 0 ∧ c.mode &&& 0xFEFEFEF8 = 0

/-- The unassigned bits of the device registers read 0: the DMA channels, IMS (R53), IST bits 15:14 (R54), the
interrupt controllers, and HIRQ bits 15:11 (R58). -/
def State.reservedClear (s : State) : Prop :=
  (∀ level, (s.scu.channel level).reservedClear s.config level) ∧ s.scu.ims &&& 0xFFFF4000 = 0 ∧
  s.scu.ist &&& 0x0000C000 = 0 ∧ s.master.intc.reservedClear ∧ s.slave.intc.reservedClear ∧
  s.cd.hirq &&& 0xF800 = 0

/-- The DMA queue is sorted by level (R56), and every entry in it waits for its start factor or is queued (R408). -/
def State.queueOrdered (s : State) : Prop :=
  s.scu.queue.Pairwise (fun a b => a.level ≤ b.level) ∧
  ∀ cfg ∈ s.scu.queue, cfg.status = .waitingStartFactor ∨ cfg.status = .queued

end Sys2Proof.Machine
end

