-- ==== Sys2Proof/Certificates/Slice0/Obligations.lean ====
section
/-!
DEFINITION. The statements for the provers, each a rule of the spec or a property of the whole machine. Values are
written in arithmetic of their own (33-bit sums, bit vectors, shifts), not by the functions the meanings use. `RunsTo`
and `RunsStoring` (Sys2Proof/Safety.lean) say that an instruction completes, what the active CPU and storage are then,
and that nothing else has changed. The active CPU is the one whose step is taken; the other one is part of the frame.
A cost is that of the instruction's row of `CYCLES` (R10, R591), whatever numbers the table of the machine holds; that
the numbers are those of R591 by default is part of `reset_state`.
-/

open Sys2Proof Sys2Proof.Machine

/-! ### Encoding -/

/-- Decoding and encoding are inverse: decoding an encoded instruction gives it back, with every operand at every value
its field admits, whatever bytes follow; and every word that decodes is the encoding of what it decodes to (R121, R124,
R125, R130). -/
def Obligations.decode_and_encode_agree : Prop :=
  (∀ i : Instr, decodeWord (encode i) = some i ∧ ∀ rest, decode (encodeBytes i ++ rest) = .ok (i, rest)) ∧
  (∀ (w : Half) (i : Instr), decodeWord w = some i → encode i = w)

/-- The decoder is the table lookup of R124: a word matches the row of an instruction exactly when it decodes to an
instruction of that row, and a word that decodes to nothing matches no row (R140). `IllegalInSlot` on words, the
disjunction over R180's patterns, picks out exactly the words that decode to one of the thirteen instructions. -/
def Obligations.decode_is_table_lookup : Prop :=
  (∀ (w : Half) (j : Instr), w &&& j.row.1 = j.row.2 ↔ ∃ i, decodeWord w = some i ∧ i.row = j.row) ∧
  (∀ w : Half, illegalInSlotWord w = (decodeWord w).any Instr.isIllegalInSlot)

/-- A few words of the spec's own examples, one or two from each family, decode to their instructions. -/
def Obligations.example_words_decode : Prop :=
  decodeWord 0xE3FE = some (.movImm 0xFE 3) ∧ decodeWord 0x1312 = some (.movlStoreDisp 1 2 3) ∧
  decodeWord 0x8035 = some (.movbStoreDisp 5 3) ∧ decodeWord 0x313E = some (.addc 3 1) ∧
  decodeWord 0x412F = some (.macW 2 1) ∧ decodeWord 0xCD0F = some (.andbGbr 0x0F) ∧
  decodeWord 0x4125 = some (.rotcr 1) ∧ decodeWord 0x8FFC = some (.bfs 0xFC) ∧ decodeWord 0xB07E = some (.bsr 0x07E) ∧
  decodeWord 0x4F07 = some (.ldclSr 15) ∧ decodeWord 0xC320 = some (.trapa 0x20) ∧ decodeWord 0x0000 = none

/-! ### The step -/

/-- A step runs the decoded instruction (R160). With no host call due, the emulation running, nothing acceptable, the
CPU awake and an even pc, if the fetch answers a word and the state after it, and the word decodes, the step is `exec`
of the instruction on that state, followed only by the clearing of `por_slot_quirk` (log 20). -/
def Obligations.step_runs_decoded_instruction : Prop :=
  ∀ (s s' : State) (w : Half) (i : Instr), s.hostInputs = [] → s.emulationStopped = false →
    s.cpu.acceptable = none → s.cpu.sleeping = false → s.cpu.pc.toNat % 2 = 0 →
    memRead16 s.cpu.pc s = .next (w, s') → decodeWord w = some i →
    step s = match exec i s' with
      | .next t    => .next (t.mapCpu fun c => { c with porSlotQuirk := false })
      | .fault f   => .fault f
      | .refused r => .refused r

/-- The other ends of a step (R160 items 1, 3 and 4, R174, R593): once stopped it is refused; a sleeping CPU with
nothing acceptable reports 0 cycles and changes nothing else; an odd pc faults; a fetched word at a plain address that
spells no instruction halts with the word and the pc recorded, no register changed but `cycles_elapsed`. That a halt is
a next state and later steps are refused is the model's reading (log 16). -/
def Obligations.step_without_instruction : Prop :=
  ∀ s : State, s.hostInputs = [] →
    (s.emulationStopped = true → step s = .refused .emulationStopped) ∧
    (s.emulationStopped = false → s.cpu.acceptable = none → s.cpu.sleeping = true →
      ∃ t, step s = .next t ∧ t.cpu = { s.cpu with cyclesElapsed := 0 } ∧ SameOutside s t) ∧
    (s.emulationStopped = false → s.cpu.acceptable = none → s.cpu.sleeping = false → s.cpu.pc.toNat % 2 = 1 →
      step s = .fault (.misalignedFetch s.cpu.pc)) ∧
    (∀ w, s.emulationStopped = false → s.cpu.acceptable = none → s.cpu.sleeping = false →
      plainHalf s s.cpu.pc = some w → decodeWord w = none →
      ∃ t n, step s = .next t ∧ t.emulationStopped = true ∧
        t.diagnostic = some ⟨.badOpcode, s.active, w, s.cpu.pc⟩ ∧ t.cpu = { s.cpu with cyclesElapsed := n } ∧
        SameButStopped s t)

/-! ### Data transfer -/

/-- Immediate, register, T-bit, address and rearranging moves (R201, R204, R235 to R239): the destination register,
`pc + 2`, the cost of a simple instruction (1), nothing else. -/
def Obligations.register_moves : Prop :=
  ∀ (s : State) (m n : Reg) (imm : Byte),
    RunsTo (.movImm imm n) s { s.after .simple with r := s.cpu.r.set n (imm.signExtend 32) } ∧
    RunsTo (.movReg m n) s { s.after .simple with r := s.cpu.r.set n (s.cpu.r.get m) } ∧
    RunsTo (.movt n) s { s.after .simple with r := s.cpu.r.set n (if s.cpu.sr.t then 1 else 0) } ∧
    RunsTo (.mova imm) s { s.after .simple with
      r := s.cpu.r.set 0 (((s.cpu.pc + 4) >>> 2 <<< 2) + (zext imm <<< 2)) } ∧
    RunsTo (.swapb m n) s { s.after .simple with
      r := s.cpu.r.set n ((s.cpu.r.get m &&& (0xFFFF0000 : Word)) ||| ((s.cpu.r.get m &&& 0x000000FF) <<< 8) |||
        ((s.cpu.r.get m &&& 0x0000FF00) >>> 8)) } ∧
    RunsTo (.swapw m n) s { s.after .simple with r := s.cpu.r.set n ((s.cpu.r.get m).rotateLeft 16) } ∧
    RunsTo (.xtrct m n) s { s.after .simple with
      r := s.cpu.r.set n ((s.cpu.r.get m <<< 16) ||| (s.cpu.r.get n >>> 16)) }

/-- Byte loads (R208, R220, R226, R232), word loads (R202, R209, R221, R227, R233) and longword loads (R203, R210, R222,
R228, R234) from storage or unmapped addresses, aligned to their width: bytes and words are sign-extended. -/
def Obligations.loads : Prop :=
  ∀ (s : State) (m n : Reg) (d4 : BitVec 4) (d8 v : Byte) (h : Half) (l : Word),
    (plainByte s (s.cpu.r.get m) = some v →
      RunsTo (.movbLoad m n) s { s.after .simple with r := s.cpu.r.set n (v.signExtend 32) }) ∧
    (plainByte s (s.cpu.r.get m + d4.setWidth 32) = some v →
      RunsTo (.movbLoadDisp d4 m) s { s.after .simple with r := s.cpu.r.set 0 (v.signExtend 32) }) ∧
    (plainByte s (s.cpu.r.get m + s.cpu.r.get 0) = some v →
      RunsTo (.movbLoadIdx m n) s { s.after .simple with r := s.cpu.r.set n (v.signExtend 32) }) ∧
    (plainByte s (s.cpu.gbr + d8.setWidth 32) = some v →
      RunsTo (.movbLoadGbr d8) s { s.after .simple with r := s.cpu.r.set 0 (v.signExtend 32) }) ∧
    (plainHalf s (s.cpu.r.get m) = some h →
      RunsTo (.movwLoad m n) s { s.after .simple with r := s.cpu.r.set n (h.signExtend 32) }) ∧
    (plainHalf s (s.cpu.r.get m + (zext d4 <<< 1)) = some h →
      RunsTo (.movwLoadDisp d4 m) s { s.after .simple with r := s.cpu.r.set 0 (h.signExtend 32) }) ∧
    (plainHalf s (s.cpu.r.get m + s.cpu.r.get 0) = some h →
      RunsTo (.movwLoadIdx m n) s { s.after .simple with r := s.cpu.r.set n (h.signExtend 32) }) ∧
    (plainHalf s (s.cpu.gbr + (zext d8 <<< 1)) = some h →
      RunsTo (.movwLoadGbr d8) s { s.after .simple with r := s.cpu.r.set 0 (h.signExtend 32) }) ∧
    (plainHalf s (s.cpu.pc + (4 : Word) + (zext d8 <<< 1)) = some h →
      RunsTo (.movwLoadPc d8 n) s { s.after .simple with r := s.cpu.r.set n (h.signExtend 32) }) ∧
    (plainLong s (s.cpu.r.get m) = some l →
      RunsTo (.movlLoad m n) s { s.after .simple with r := s.cpu.r.set n l }) ∧
    (plainLong s (s.cpu.r.get m + (zext d4 <<< 2)) = some l →
      RunsTo (.movlLoadDisp d4 m n) s { s.after .simple with r := s.cpu.r.set n l }) ∧
    (plainLong s (s.cpu.r.get m + s.cpu.r.get 0) = some l →
      RunsTo (.movlLoadIdx m n) s { s.after .simple with r := s.cpu.r.set n l }) ∧
    (plainLong s (s.cpu.gbr + (zext d8 <<< 2)) = some l →
      RunsTo (.movlLoadGbr d8) s { s.after .simple with r := s.cpu.r.set 0 l }) ∧
    (plainLong s (((s.cpu.pc + 4) >>> 2 <<< 2) + (zext d8 <<< 2)) = some l →
      RunsTo (.movlLoadPc d8 n) s { s.after .simple with r := s.cpu.r.set n l })

/-- Post-increment loads (R214 to R216): the base moves by the access size; where base and destination are one
register, the loaded value wins. -/
def Obligations.post_increment_loads : Prop :=
  ∀ (s : State) (m n : Reg),
    (∀ v, plainByte s (s.cpu.r.get m) = some v →
      RunsTo (.movbPop m n) s { s.after .simple with
        r := (s.cpu.r.set m (s.cpu.r.get m + 1)).set n (v.signExtend 32) }) ∧
    (∀ v, plainHalf s (s.cpu.r.get m) = some v →
      RunsTo (.movwPop m n) s { s.after .simple with
        r := (s.cpu.r.set m (s.cpu.r.get m + 2)).set n (v.signExtend 32) }) ∧
    (∀ v, plainLong s (s.cpu.r.get m) = some v →
      RunsTo (.movlPop m n) s { s.after .simple with
        r := (s.cpu.r.set m (s.cpu.r.get m + 4)).set n v })

/-- Stores (R205 to R207, R217 to R219, R223 to R225, R229 to R231) at storage or unmapped addresses, aligned to their
width: the low bytes of the data register at the computed address, most significant first; no register changes. -/
def Obligations.stores : Prop :=
  ∀ (s : State) (m n : Reg) (d4 : BitVec 4) (d8 : Byte) (a : Word), plainPlace s a = true →
    (a = s.cpu.r.get n →
      RunsStoring (.movbStore m n) s (s.after .simple) (stored s a 1 (s.cpu.r.get m))) ∧
    (a = s.cpu.r.get n + d4.setWidth 32 →
      RunsStoring (.movbStoreDisp d4 n) s (s.after .simple) (stored s a 1 (s.cpu.r.get 0))) ∧
    (a = s.cpu.r.get n + s.cpu.r.get 0 →
      RunsStoring (.movbStoreIdx m n) s (s.after .simple) (stored s a 1 (s.cpu.r.get m))) ∧
    (a = s.cpu.gbr + d8.setWidth 32 →
      RunsStoring (.movbStoreGbr d8) s (s.after .simple) (stored s a 1 (s.cpu.r.get 0))) ∧
    (a.toNat % 2 = 0 → a = s.cpu.r.get n →
      RunsStoring (.movwStore m n) s (s.after .simple) (stored s a 2 (s.cpu.r.get m))) ∧
    (a.toNat % 2 = 0 → a = s.cpu.r.get n + (zext d4 <<< 1) →
      RunsStoring (.movwStoreDisp d4 n) s (s.after .simple) (stored s a 2 (s.cpu.r.get 0))) ∧
    (a.toNat % 2 = 0 → a = s.cpu.r.get n + s.cpu.r.get 0 →
      RunsStoring (.movwStoreIdx m n) s (s.after .simple) (stored s a 2 (s.cpu.r.get m))) ∧
    (a.toNat % 2 = 0 → a = s.cpu.gbr + (zext d8 <<< 1) →
      RunsStoring (.movwStoreGbr d8) s (s.after .simple) (stored s a 2 (s.cpu.r.get 0))) ∧
    (a.toNat % 4 = 0 → a = s.cpu.r.get n →
      RunsStoring (.movlStore m n) s (s.after .simple) (stored s a 4 (s.cpu.r.get m))) ∧
    (a.toNat % 4 = 0 → a = s.cpu.r.get n + (zext d4 <<< 2) →
      RunsStoring (.movlStoreDisp m d4 n) s (s.after .simple) (stored s a 4 (s.cpu.r.get m))) ∧
    (a.toNat % 4 = 0 → a = s.cpu.r.get n + s.cpu.r.get 0 →
      RunsStoring (.movlStoreIdx m n) s (s.after .simple) (stored s a 4 (s.cpu.r.get m))) ∧
    (a.toNat % 4 = 0 → a = s.cpu.gbr + (zext d8 <<< 2) →
      RunsStoring (.movlStoreGbr d8) s (s.after .simple) (stored s a 4 (s.cpu.r.get 0)))

/-- Pre-decrement stores (R211 to R213): the address register moves down by the access size, and the value stored is
the data register's before that. -/
def Obligations.pre_decrement_stores : Prop :=
  ∀ (s : State) (m n : Reg) (a : Word), plainPlace s a = true →
    (a = s.cpu.r.get n - 1 →
      RunsStoring (.movbPush m n) s { s.after .simple with r := s.cpu.r.set n a } (stored s a 1 (s.cpu.r.get m))) ∧
    (a.toNat % 2 = 0 → a = s.cpu.r.get n - 2 →
      RunsStoring (.movwPush m n) s { s.after .simple with r := s.cpu.r.set n a } (stored s a 2 (s.cpu.r.get m))) ∧
    (a.toNat % 4 = 0 → a = s.cpu.r.get n - 4 →
      RunsStoring (.movlPush m n) s { s.after .simple with r := s.cpu.r.set n a } (stored s a 4 (s.cpu.r.get m)))

/-- Wherever the address leads, storage or a device, these loads and stores are one access of the bus: they answer
what the access answers, a stop included, and change nothing beyond it but their own CPU (R200 (d)). What the access does
there is said by the statements on memory and devices. -/
def Obligations.accesses_follow_the_bus : Prop :=
  ∀ (s : State) (m n k : Reg) (d4 : BitVec 4) (d8 : Byte) (i : Instr) (a v : Word),
    ((i, a, k) ∈ [(.movbLoad m n, s.cpu.r.get m, n), (.movbLoadDisp d4 m, s.cpu.r.get m + zext d4, 0),
        (.movbLoadIdx m n, s.cpu.r.get m + s.cpu.r.get 0, n), (.movbLoadGbr d8, s.cpu.gbr + zext d8, 0)] →
      Follows i s (memRead8 a s) Prod.snd fun x => { x.2.after .simple with r := x.2.cpu.r.set k (sext x.1) }) ∧
    ((i, a, k) ∈ [(.movwLoad m n, s.cpu.r.get m, n), (.movwLoadDisp d4 m, s.cpu.r.get m + (zext d4 <<< 1), 0),
        (.movwLoadIdx m n, s.cpu.r.get m + s.cpu.r.get 0, n), (.movwLoadGbr d8, s.cpu.gbr + (zext d8 <<< 1), 0)] →
      Follows i s (memRead16 a s) Prod.snd fun x => { x.2.after .simple with r := x.2.cpu.r.set k (sext x.1) }) ∧
    ((i, a, k) ∈ [(.movlLoad m n, s.cpu.r.get m, n), (.movlLoadDisp d4 m n, s.cpu.r.get m + (zext d4 <<< 2), n),
        (.movlLoadIdx m n, s.cpu.r.get m + s.cpu.r.get 0, n), (.movlLoadGbr d8, s.cpu.gbr + (zext d8 <<< 2), 0)] →
      Follows i s (memRead32 a s) Prod.snd fun x => { x.2.after .simple with r := x.2.cpu.r.set k x.1 }) ∧
    ((i, a, v) ∈ [(.movbStore m n, s.cpu.r.get n, s.cpu.r.get m),
        (.movbStoreDisp d4 n, s.cpu.r.get n + zext d4, s.cpu.r.get 0),
        (.movbStoreIdx m n, s.cpu.r.get n + s.cpu.r.get 0, s.cpu.r.get m),
        (.movbStoreGbr d8, s.cpu.gbr + zext d8, s.cpu.r.get 0)] →
      Follows i s (memWrite8 a (v.setWidth 8) s) id fun u => u.after .simple) ∧
    ((i, a, v) ∈ [(.movwStore m n, s.cpu.r.get n, s.cpu.r.get m),
        (.movwStoreDisp d4 n, s.cpu.r.get n + (zext d4 <<< 1), s.cpu.r.get 0),
        (.movwStoreIdx m n, s.cpu.r.get n + s.cpu.r.get 0, s.cpu.r.get m),
        (.movwStoreGbr d8, s.cpu.gbr + (zext d8 <<< 1), s.cpu.r.get 0)] →
      Follows i s (memWrite16 a (v.setWidth 16) s) id fun u => u.after .simple) ∧
    ((i, a, v) ∈ [(.movlStore m n, s.cpu.r.get n, s.cpu.r.get m),
        (.movlStoreDisp m d4 n, s.cpu.r.get n + (zext d4 <<< 2), s.cpu.r.get m),
        (.movlStoreIdx m n, s.cpu.r.get n + s.cpu.r.get 0, s.cpu.r.get m),
        (.movlStoreGbr d8, s.cpu.gbr + (zext d8 <<< 2), s.cpu.r.get 0)] →
      Follows i s (memWrite32 a v s) id fun u => u.after .simple)

/-- A word or longword access through a register or GBR at an address that is not a multiple of its size is
`fault(misaligned_access)` with that address and width: loads, stores, pushes and pops of data (R200 (e)), of control
and system registers (R350 (e)), the first operand of MAC (R274, R275), and the stacks of TRAPA and RTE (R366, R381). -/
def Obligations.misaligned_accesses_fault : Prop :=
  ∀ (s : State) (m n : Reg) (d4 : BitVec 4) (d8 : Byte) (a : Word),
    ((s.cpu.r.get m).toNat % 2 = 1 → a = s.cpu.r.get m →
      exec (.movwLoad m n) s = .fault (.misalignedAccess a 2) ∧
      exec (.movwPop m n) s = .fault (.misalignedAccess a 2) ∧
      exec (.movwStore n m) s = .fault (.misalignedAccess a 2) ∧
      exec (.movwPush n m) s = .fault (.misalignedAccess (a - 2) 2) ∧
      exec (.movwLoadDisp d4 m) s = .fault (.misalignedAccess (a + (zext d4 <<< 1)) 2) ∧
      exec (.movwStoreDisp d4 m) s = .fault (.misalignedAccess (a + (zext d4 <<< 1)) 2)) ∧
    ((s.cpu.r.get m).toNat % 4 ≠ 0 → a = s.cpu.r.get m →
      exec (.movlLoad m n) s = .fault (.misalignedAccess a 4) ∧
      exec (.movlPop m n) s = .fault (.misalignedAccess a 4) ∧
      exec (.movlStore n m) s = .fault (.misalignedAccess a 4) ∧
      exec (.movlPush n m) s = .fault (.misalignedAccess (a - 4) 4) ∧
      exec (.movlLoadDisp d4 m n) s = .fault (.misalignedAccess (a + (zext d4 <<< 2)) 4) ∧
      exec (.movlStoreDisp n d4 m) s = .fault (.misalignedAccess (a + (zext d4 <<< 2)) 4)) ∧
    (a = s.cpu.r.get m + s.cpu.r.get 0 → a.toNat % 2 = 1 →
      exec (.movwLoadIdx m n) s = .fault (.misalignedAccess a 2) ∧
      exec (.movwStoreIdx n m) s = .fault (.misalignedAccess a 2)) ∧
    (a = s.cpu.r.get m + s.cpu.r.get 0 → a.toNat % 4 ≠ 0 →
      exec (.movlLoadIdx m n) s = .fault (.misalignedAccess a 4) ∧
      exec (.movlStoreIdx n m) s = .fault (.misalignedAccess a 4)) ∧
    (s.cpu.gbr.toNat % 2 = 1 → a = s.cpu.gbr + (zext d8 <<< 1) →
      exec (.movwLoadGbr d8) s = .fault (.misalignedAccess a 2) ∧
      exec (.movwStoreGbr d8) s = .fault (.misalignedAccess a 2)) ∧
    (s.cpu.gbr.toNat % 4 ≠ 0 → a = s.cpu.gbr + (zext d8 <<< 2) →
      exec (.movlLoadGbr d8) s = .fault (.misalignedAccess a 4) ∧
      exec (.movlStoreGbr d8) s = .fault (.misalignedAccess a 4)) ∧
    ((s.cpu.r.get m).toNat % 4 ≠ 0 → a = s.cpu.r.get m →
      exec (.ldclSr m) s = .fault (.misalignedAccess a 4) ∧ exec (.ldclGbr m) s = .fault (.misalignedAccess a 4) ∧
      exec (.ldclVbr m) s = .fault (.misalignedAccess a 4) ∧ exec (.ldslMach m) s = .fault (.misalignedAccess a 4) ∧
      exec (.ldslMacl m) s = .fault (.misalignedAccess a 4) ∧ exec (.ldslPr m) s = .fault (.misalignedAccess a 4) ∧
      exec (.stclSr m) s = .fault (.misalignedAccess (a - 4) 4) ∧
      exec (.stclGbr m) s = .fault (.misalignedAccess (a - 4) 4) ∧
      exec (.stclVbr m) s = .fault (.misalignedAccess (a - 4) 4) ∧
      exec (.stslMach m) s = .fault (.misalignedAccess (a - 4) 4) ∧
      exec (.stslMacl m) s = .fault (.misalignedAccess (a - 4) 4) ∧
      exec (.stslPr m) s = .fault (.misalignedAccess (a - 4) 4) ∧
      exec (.macL n m) s = .fault (.misalignedAccess a 4) ∧
      (m = 15 → exec .rte s = .fault (.misalignedAccess a 4) ∧
        exec (.trapa d8) s = .fault (.misalignedAccess (a - 4) 4))) ∧
    ((s.cpu.r.get m).toNat % 2 = 1 → exec (.macW n m) s = .fault (.misalignedAccess (s.cpu.r.get m) 2))

/-! ### Arithmetic -/

/-- Additions, subtractions and negations (R251 to R254, R279 to R283). Carry and borrow are bit 32 of the 33-bit sum
or difference; overflow is read from the three signs. ADD, SUB and NEG leave T alone. -/
def Obligations.additions_and_subtractions : Prop :=
  ∀ (s : State) (m n : Reg) (imm : Byte) (a b t : Word), a = s.cpu.r.get n → b = s.cpu.r.get m →
    t = (if s.cpu.sr.t then 1 else 0) →
    RunsTo (.addReg m n) s { s.after .simple with r := s.cpu.r.set n (a + b) } ∧
    RunsTo (.addImm imm n) s { s.after .simple with r := s.cpu.r.set n (a + imm.signExtend 32) } ∧
    RunsTo (.addc m n) s { s.after .simple with
      r := s.cpu.r.set n (a + b + t)
      sr := { s.cpu.sr with t := (a.setWidth 33 + b.setWidth 33 + t.setWidth 33).getLsbD 32 } } ∧
    RunsTo (.addv m n) s { s.after .simple with
      r := s.cpu.r.set n (a + b)
      sr := { s.cpu.sr with t := (a.msb == b.msb) && ((a + b).msb != a.msb) } } ∧
    RunsTo (.subReg m n) s { s.after .simple with r := s.cpu.r.set n (a - b) } ∧
    RunsTo (.subc m n) s { s.after .simple with
      r := s.cpu.r.set n (a - b - t)
      sr := { s.cpu.sr with t := (a.setWidth 33 - b.setWidth 33 - t.setWidth 33).getLsbD 32 } } ∧
    RunsTo (.subv m n) s { s.after .simple with
      r := s.cpu.r.set n (a - b)
      sr := { s.cpu.sr with t := (a.msb != b.msb) && ((a - b).msb != a.msb) } } ∧
    RunsTo (.negReg m n) s { s.after .simple with r := s.cpu.r.set n (-b) } ∧
    RunsTo (.negc m n) s { s.after .simple with
      r := s.cpu.r.set n (-b - t)
      sr := { s.cpu.sr with t := !(b == 0 && t == 0) } }

/-- The comparisons (R255 to R263) write T, by unsigned or signed order of `Rn` against `Rm`, and nothing else. -/
def Obligations.comparisons : Prop :=
  ∀ (s : State) (m n : Reg) (imm : Byte) (a b : Word), a = s.cpu.r.get n → b = s.cpu.r.get m →
    RunsTo (.cmpEqImm imm) s { s.after .simple with
      sr := { s.cpu.sr with t := s.cpu.r.get 0 == imm.signExtend 32 } } ∧
    RunsTo (.cmpEqReg m n) s { s.after .simple with sr := { s.cpu.sr with t := a == b } } ∧
    RunsTo (.cmpHs m n) s { s.after .simple with sr := { s.cpu.sr with t := b.ule a } } ∧
    RunsTo (.cmpGe m n) s { s.after .simple with sr := { s.cpu.sr with t := b.sle a } } ∧
    RunsTo (.cmpHi m n) s { s.after .simple with sr := { s.cpu.sr with t := b.ult a } } ∧
    RunsTo (.cmpGt m n) s { s.after .simple with sr := { s.cpu.sr with t := b.slt a } } ∧
    RunsTo (.cmpPl n) s { s.after .simple with sr := { s.cpu.sr with t := !a.msb && a != 0 } } ∧
    RunsTo (.cmpPz n) s { s.after .simple with sr := { s.cpu.sr with t := !a.msb } } ∧
    RunsTo (.cmpStr m n) s { s.after .simple with
      sr := { s.cpu.sr with t := decide (∃ k : Fin 4, a.extractLsb' (8 * k) 8 = b.extractLsb' (8 * k) 8) } }

/-- The division steps (R264 to R266). `DIV1` shifts T into the dividend, subtracts the divisor when the old Q equals M
and adds it otherwise; the new Q is the bit shifted out corrected by M and by bit 32 of the 33-bit result, and T is the
quotient bit. -/
def Obligations.division_steps : Prop :=
  ∀ (s : State) (m n : Reg) (a b : Word) (wide shifted : BitVec 33) (q : Bool),
    a = s.cpu.r.get n → b = s.cpu.r.get m →
    shifted = ((a <<< 1) ||| (if s.cpu.sr.t then 1 else 0)).setWidth 33 →
    wide = (if s.cpu.sr.q = s.cpu.sr.m then shifted - b.setWidth 33 else shifted + b.setWidth 33) →
    q = ((a.msb ^^ s.cpu.sr.m) ^^ wide.getLsbD 32) →
    RunsTo (.div1 m n) s { s.after .simple with
      r := s.cpu.r.set n (wide.setWidth 32), sr := { s.cpu.sr with q := q, t := q == s.cpu.sr.m } } ∧
    RunsTo (.div0s m n) s { s.after .simple with
      sr := { s.cpu.sr with q := a.msb, m := b.msb, t := a.msb ^^ b.msb } } ∧
    RunsTo .div0u s { s.after .simple with sr := { s.cpu.sr with q := false, m := false, t := false } }

/-- The multiplies (R267, R268, R276 to R278): products of the extended factors; the 64-bit ones fill MACH and MACL,
the others write MACL alone. -/
def Obligations.multiplies : Prop :=
  ∀ (s : State) (m n : Reg) (a b : Word), a = s.cpu.r.get n → b = s.cpu.r.get m →
    (∃ c, c.mach ++ c.macl = a.signExtend 64 * b.signExtend 64 ∧
      c = { s.after .multiply with mach := c.mach, macl := c.macl } ∧ RunsTo (.dmulsl m n) s c) ∧
    (∃ c, c.mach ++ c.macl = a.setWidth 64 * b.setWidth 64 ∧
      c = { s.after .multiply with mach := c.mach, macl := c.macl } ∧ RunsTo (.dmulul m n) s c) ∧
    RunsTo (.mull m n) s { s.after .multiply with macl := a * b } ∧
    RunsTo (.mulsw m n) s { s.after .simple with
      macl := (a.setWidth 16).signExtend 32 * (b.setWidth 16).signExtend 32 } ∧
    RunsTo (.muluw m n) s { s.after .simple with macl := (a &&& 0xFFFF) * (b &&& 0xFFFF) }

/-- `MAC.L` (R274) on plain operands: the operand of `Rn` is read first, both pointers advance by 4 (one register used
twice advances by 8), and the product is added to the 64-bit accumulator, or with S set the sum goes through the
parameter `MACL_SAT`: it is clamped to 48 bits signed, or saturated by the unknown function that stands for any other
value of the parameter (log 25). -/
def Obligations.multiply_accumulate_longwords : Prop :=
  ∀ (s : State) (m n : Reg) (am a b : Word) (acc : BitVec 64), acc = s.cpu.mach ++ s.cpu.macl →
    plainLong s (s.cpu.r.get n) = some a → am = (if m = n then s.cpu.r.get n + 4 else s.cpu.r.get m) →
    plainLong s am = some b →
    ∃ c, c = { s.after .multiplyAccumulate with
        r := (s.cpu.r.set n (s.cpu.r.get n + 4)).set m (am + 4), mach := c.mach, macl := c.macl } ∧
      (s.cpu.sr.s = false → c.mach ++ c.macl = acc + a.signExtend 64 * b.signExtend 64) ∧
      (s.cpu.sr.s = true → s.config.maclSat = .clamp48 →
        (c.mach ++ c.macl : BitVec 64).toInt = max (-2 ^ 47) (min (2 ^ 47 - 1) (acc.toInt + a.toInt * b.toInt))) ∧
      (s.cpu.sr.s = true → s.config.maclSat = .other →
        c.mach ++ c.macl = BitVec.ofInt 64 (Config.maclSaturation (acc.toInt + a.toInt * b.toInt))) ∧
      RunsTo (.macL m n) s c

/-- `MAC.W` (R275) on plain operands: both pointers advance by 2; with S clear the product is added to the 64-bit
accumulator; with S set it is added to MACL alone, which saturates at 32 bits signed, an overflow setting bit 0 of MACH
if the parameter says so. -/
def Obligations.multiply_accumulate_words : Prop :=
  ∀ (s : State) (m n : Reg) (am : Word) (a b : Half) (p r : Int) (acc : BitVec 64) (sat : Word),
    acc = s.cpu.mach ++ s.cpu.macl → p = a.toInt * b.toInt → r = s.cpu.macl.toInt + p →
    plainHalf s (s.cpu.r.get n) = some a → am = (if m = n then s.cpu.r.get n + 2 else s.cpu.r.get m) →
    plainHalf s am = some b →
    sat = (if s.config.macwSatSetsMachLsb then s.cpu.mach ||| 1 else s.cpu.mach) →
    ∃ c, c = { s.after .multiplyAccumulate with
        r := (s.cpu.r.set n (s.cpu.r.get n + 2)).set m (am + 2), mach := c.mach, macl := c.macl } ∧
      (s.cpu.sr.s = false → c.mach ++ c.macl = acc + a.signExtend 64 * b.signExtend 64) ∧
      (s.cpu.sr.s = true → 2 ^ 31 ≤ r → c.mach = sat ∧ c.macl = 0x7FFFFFFF) ∧
      (s.cpu.sr.s = true → r < -2 ^ 31 → c.mach = sat ∧ c.macl = 0x80000000) ∧
      (s.cpu.sr.s = true → -2 ^ 31 ≤ r → r < 2 ^ 31 → c.mach = s.cpu.mach ∧ c.macl.toInt = r) ∧
      RunsTo (.macW m n) s c

/-- The extensions (R270 to R273), written as shifts and masks, and `DT` (R269), whose T says that the new value is
zero. -/
def Obligations.extensions_and_decrement : Prop :=
  ∀ (s : State) (m n : Reg) (b : Word), b = s.cpu.r.get m →
    RunsTo (.extsb m n) s { s.after .simple with r := s.cpu.r.set n ((b <<< 24).sshiftRight 24) } ∧
    RunsTo (.extsw m n) s { s.after .simple with r := s.cpu.r.set n ((b <<< 16).sshiftRight 16) } ∧
    RunsTo (.extub m n) s { s.after .simple with r := s.cpu.r.set n (b &&& 0x000000FF) } ∧
    RunsTo (.extuw m n) s { s.after .simple with r := s.cpu.r.set n (b &&& 0x0000FFFF) } ∧
    RunsTo (.dt m) s { s.after .simple with
      r := s.cpu.r.set m (b - 1), sr := { s.cpu.sr with t := b == 1 } }

/-! ### Logic and shifts -/

/-- The logic operations on registers and the tests (R291, R292, R294 to R296, R299, R300, R302, R303): immediates are
zero-extended; only the tests write T. -/
def Obligations.register_logic : Prop :=
  ∀ (s : State) (m n : Reg) (imm : Byte) (a b z : Word), a = s.cpu.r.get n → b = s.cpu.r.get m → z = s.cpu.r.get 0 →
    RunsTo (.andReg m n) s { s.after .simple with r := s.cpu.r.set n (a &&& b) } ∧
    RunsTo (.orReg m n) s { s.after .simple with r := s.cpu.r.set n (a ||| b) } ∧
    RunsTo (.xorReg m n) s { s.after .simple with r := s.cpu.r.set n (a ^^^ b) } ∧
    RunsTo (.notReg m n) s { s.after .simple with r := s.cpu.r.set n (b ^^^ 0xFFFFFFFF) } ∧
    RunsTo (.andImm imm) s { s.after .simple with r := s.cpu.r.set 0 (0#24 ++ (z.setWidth 8 &&& imm)) } ∧
    RunsTo (.orImm imm) s { s.after .simple with r := s.cpu.r.set 0 (z.extractLsb' 8 24 ++ (z.setWidth 8 ||| imm)) } ∧
    RunsTo (.xorImm imm) s { s.after .simple with r := s.cpu.r.set 0 (z.extractLsb' 8 24 ++ (z.setWidth 8 ^^^ imm)) } ∧
    RunsTo (.tstReg m n) s { s.after .simple with sr := { s.cpu.sr with t := a &&& b == 0 } } ∧
    RunsTo (.tstImm imm) s { s.after .simple with sr := { s.cpu.sr with t := z.setWidth 8 &&& imm == 0 } }

/-- The byte operations on `@(R0,GBR)` and `TAS.B` (R293, R297, R298, R301, R304) at plain addresses: one byte read and
written back, no register changed; `TST.B` writes nothing; `TAS.B` sets the top bit whatever it read. -/
def Obligations.memory_logic : Prop :=
  ∀ (s : State) (n : Reg) (imm v : Byte) (a : Word),
    (a = s.cpu.gbr + s.cpu.r.get 0 → plainByte s a = some v →
      RunsStoring (.andbGbr imm) s (s.after .memoryLogic) (stored s a 1 (v &&& imm)) ∧
      RunsStoring (.orbGbr imm) s (s.after .memoryLogic) (stored s a 1 (v ||| imm)) ∧
      RunsStoring (.xorbGbr imm) s (s.after .memoryLogic) (stored s a 1 (v ^^^ imm)) ∧
      RunsTo (.tstbGbr imm) s { s.after .memoryLogic with sr := { s.cpu.sr with t := v &&& imm == 0 } }) ∧
    (a = s.cpu.r.get n → plainByte s a = some v →
      RunsStoring (.tasb n) s { s.after .testAndSet with sr := { s.cpu.sr with t := v == 0 } }
        (stored s a 1 (v ||| 0x80)))

/-- Rotates and one-bit shifts (R305 to R312): T takes the bit shifted out, the result is the rotation or shift. Shifts by
2, 8 and 16 bits (R313 to R318), written as products and quotients: the bits shifted out are lost, SR is unchanged. -/
def Obligations.rotates_and_shifts : Prop :=
  ∀ (s : State) (n : Reg) (a t : Word), a = s.cpu.r.get n → t = (if s.cpu.sr.t then 1 else 0) →
    RunsTo (.rotl n) s { s.after .simple with
      r := s.cpu.r.set n (a.rotateLeft 1), sr := { s.cpu.sr with t := a.msb } } ∧
    RunsTo (.rotr n) s { s.after .simple with
      r := s.cpu.r.set n (a.rotateRight 1), sr := { s.cpu.sr with t := a.getLsbD 0 } } ∧
    RunsTo (.rotcl n) s { s.after .simple with
      r := s.cpu.r.set n ((a <<< 1) ||| t), sr := { s.cpu.sr with t := a.msb } } ∧
    RunsTo (.rotcr n) s { s.after .simple with
      r := s.cpu.r.set n ((a >>> 1) ||| (t <<< 31)), sr := { s.cpu.sr with t := a.getLsbD 0 } } ∧
    RunsTo (.shal n) s { s.after .simple with
      r := s.cpu.r.set n (a + a), sr := { s.cpu.sr with t := a.msb } } ∧
    RunsTo (.shar n) s { s.after .simple with
      r := s.cpu.r.set n (a.sshiftRight 1), sr := { s.cpu.sr with t := a.getLsbD 0 } } ∧
    RunsTo (.shll n) s { s.after .simple with
      r := s.cpu.r.set n (a + a), sr := { s.cpu.sr with t := a.msb } } ∧
    RunsTo (.shlr n) s { s.after .simple with
      r := s.cpu.r.set n (a >>> 1), sr := { s.cpu.sr with t := a.getLsbD 0 } } ∧
    RunsTo (.shll2 n) s { s.after .simple with r := s.cpu.r.set n (a * 4) } ∧
    RunsTo (.shlr2 n) s { s.after .simple with r := s.cpu.r.set n (a / 4) } ∧
    RunsTo (.shll8 n) s { s.after .simple with r := s.cpu.r.set n (a * 256) } ∧
    RunsTo (.shlr8 n) s { s.after .simple with r := s.cpu.r.set n (a / 256) } ∧
    RunsTo (.shll16 n) s { s.after .simple with r := s.cpu.r.set n (a * 65536) } ∧
    RunsTo (.shlr16 n) s { s.after .simple with r := s.cpu.r.set n (a / 65536) }

/-! ### System control -/

/-- `CLRT`, `SETT`, `CLRMAC`, `NOP` and `SLEEP` (R351, R352, R365, R367, R368). -/
def Obligations.flags_and_idle : Prop :=
  ∀ s : State,
    RunsTo .clrt s { s.after .simple with sr := { s.cpu.sr with t := false } } ∧
    RunsTo .sett s { s.after .simple with sr := { s.cpu.sr with t := true } } ∧
    RunsTo .clrmac s { s.after .simple with mach := 0, macl := 0 } ∧
    RunsTo .nop s (s.after .simple) ∧
    RunsTo .sleep s { s.after .sleep with sleeping := true }
/-- `LDC` and `LDS` from a register (R353 to R355, R359 to R361) and `STC` and `STS` into one (R369 to R371, R375 to
R377). SR keeps only its ten bits: read back it is the value ANDed with 0x3F3 (R27); it reads as
`M << 9 | Q << 8 | I << 4 | S << 1 | T` (R350 (c)). -/
def Obligations.control_register_moves : Prop :=
  ∀ (s : State) (m n : Reg) (v w : Word), v = s.cpu.r.get m →
    w = ((if s.cpu.sr.m then 1#32 else 0) <<< 9) ||| ((if s.cpu.sr.q then 1#32 else 0) <<< 8) |||
        (zext s.cpu.sr.i <<< 4) ||| ((if s.cpu.sr.s then 1#32 else 0) <<< 1) |||
        (if s.cpu.sr.t then 1#32 else 0) →
    (∃ sr : SR, sr.toWord = v &&& 0x000003F3 ∧ RunsTo (.ldcSr m) s { s.after .simple with sr := sr }) ∧
    RunsTo (.ldcGbr m) s { s.after .simple with gbr := v } ∧
    RunsTo (.ldcVbr m) s { s.after .simple with vbr := v } ∧
    RunsTo (.ldsMach m) s { s.after .simple with mach := v } ∧
    RunsTo (.ldsMacl m) s { s.after .simple with macl := v } ∧
    RunsTo (.ldsPr m) s { s.after .simple with pr := v } ∧
    RunsTo (.stcSr n) s { s.after .simple with r := s.cpu.r.set n w } ∧
    RunsTo (.stcGbr n) s { s.after .simple with r := s.cpu.r.set n s.cpu.gbr } ∧
    RunsTo (.stcVbr n) s { s.after .simple with r := s.cpu.r.set n s.cpu.vbr } ∧
    RunsTo (.stsMach n) s { s.after .simple with r := s.cpu.r.set n s.cpu.mach } ∧
    RunsTo (.stsMacl n) s { s.after .simple with r := s.cpu.r.set n s.cpu.macl } ∧
    RunsTo (.stsPr n) s { s.after .simple with r := s.cpu.r.set n s.cpu.pr }
/-- `LDC.L` and `LDS.L` (R356 to R358, R362 to R364) from a plain address that is a multiple of 4: the register named
takes the longword, the address register moves up by 4. -/
def Obligations.control_register_pops : Prop :=
  ∀ (s : State) (m : Reg) (v : Word), plainLong s (s.cpu.r.get m) = some v →
    (∃ sr : SR, sr.toWord = v &&& 0x000003F3 ∧
      RunsTo (.ldclSr m) s { s.after .loadControl with r := s.cpu.r.set m (s.cpu.r.get m + 4), sr := sr }) ∧
    RunsTo (.ldclGbr m) s { s.after .loadControl with r := s.cpu.r.set m (s.cpu.r.get m + 4), gbr := v } ∧
    RunsTo (.ldclVbr m) s { s.after .loadControl with r := s.cpu.r.set m (s.cpu.r.get m + 4), vbr := v } ∧
    RunsTo (.ldslMach m) s { s.after .simple with r := s.cpu.r.set m (s.cpu.r.get m + 4), mach := v } ∧
    RunsTo (.ldslMacl m) s { s.after .simple with r := s.cpu.r.set m (s.cpu.r.get m + 4), macl := v } ∧
    RunsTo (.ldslPr m) s { s.after .simple with r := s.cpu.r.set m (s.cpu.r.get m + 4), pr := v }

/-- `STC.L` and `STS.L` (R372 to R374, R378 to R380) at a plain address that is a multiple of 4: the longword below the
address register takes the register named, and the address register moves down by 4. -/
def Obligations.control_register_pushes : Prop :=
  ∀ (s : State) (n : Reg) (a : Word), a = s.cpu.r.get n - 4 → a.toNat % 4 = 0 → plainPlace s a = true →
    RunsStoring (.stclSr n) s { s.after .storeControl with r := s.cpu.r.set n a } (stored s a 4 s.cpu.sr.toWord) ∧
    RunsStoring (.stclGbr n) s { s.after .storeControl with r := s.cpu.r.set n a } (stored s a 4 s.cpu.gbr) ∧
    RunsStoring (.stclVbr n) s { s.after .storeControl with r := s.cpu.r.set n a } (stored s a 4 s.cpu.vbr) ∧
    RunsStoring (.stslMach n) s { s.after .simple with r := s.cpu.r.set n a } (stored s a 4 s.cpu.mach) ∧
    RunsStoring (.stslMacl n) s { s.after .simple with r := s.cpu.r.set n a } (stored s a 4 s.cpu.macl) ∧
    RunsStoring (.stslPr n) s { s.after .simple with r := s.cpu.r.set n a } (stored s a 4 s.cpu.pr)

/-- `TRAPA #imm` (R366, R536) with an aligned stack in writable storage and an aligned vector in storage: SR goes to
`R15 - 4`, the address after the instruction to `R15 - 8`, R15 moves down by 8, and the pc becomes the longword that
storage then holds at `VBR + 4*imm`. SR, the interrupt state and every other register are unchanged; the cost is that of `TRAPA` (8). -/
def Obligations.trapa_builds_the_frame : Prop :=
  ∀ (s : State) (imm : Byte) (p1 p0 pv : Nat) (w : Bool) (content : Nat → Byte),
    s.cpu.vbr.toNat % 4 = 0 → (s.cpu.r.get 15).toNat % 4 = 0 →
    s.place (s.cpu.r.get 15 - 4) = .storage p1 true → s.place (s.cpu.r.get 15 - 8) = .storage p0 true →
    s.place (s.cpu.vbr + (zext imm <<< 2)) = .storage pv w →
    content = putBytes (putBytes s.mem.read p1 4 s.cpu.sr.toWord) p0 4 (s.cpu.pc + 2) →
    RunsStoring (.trapa imm) s
      { s.cpu with
        r := s.cpu.r.set 15 (s.cpu.r.get 15 - 8)
        pc := content pv ++ content (pv + 1) ++ content (pv + 2) ++ content (pv + 3)
        cyclesElapsed := s.cost .trap }
      content

/-! ### Branches -/

/-- `BT` and `BF`, taken and not taken, and `BT/S` and `BF/S` not taken (R331 to R334, R177): no delay slot; the target
is `pc + 4` and the signed displacement in words; the costs are those of their rows (3 taken, 1 not). -/
def Obligations.conditional_branches_without_slot : Prop :=
  ∀ (s : State) (disp : Byte) (target : Word), target = s.cpu.pc + (4 : Word) + (sext disp <<< 1) →
    (s.cpu.sr.t = true →
      RunsTo (.bt disp) s (s.cpu.arrived target (s.cost .branchTaken)) ∧ RunsTo (.bf disp) s (s.after .branchNotTaken) ∧
      RunsTo (.bfs disp) s (s.after .slotBranchNotTaken)) ∧
    (s.cpu.sr.t = false →
      RunsTo (.bf disp) s (s.cpu.arrived target (s.cost .branchTaken)) ∧ RunsTo (.bt disp) s (s.after .branchNotTaken) ∧
      RunsTo (.bts disp) s (s.after .slotBranchNotTaken))

/-- The nine delayed branches of R330 with a `NOP` in the slot: they complete at their target, with their own cost (2)
and the slot's one, and the calls have written `PR <- pc + 4` (R332, R334 to R341). -/
def Obligations.delayed_branches_over_nop : Prop :=
  ∀ (s : State) (m : Reg) (d8 : Byte) (d12 : BitVec 12) (pc : Word) (jump conditional : Nat),
    pc = s.cpu.pc → pc.toNat % 2 = 0 → plainHalf s (pc + 2) = some 0x0009 →
    jump = s.cost .jump + s.cost .simple → conditional = s.cost .slotBranchTaken + s.cost .simple →
    RunsTo (.bra d12) s (s.cpu.arrived (pc + (4 : Word) + (sext d12 <<< 1)) jump) ∧
    RunsTo (.braf m) s (s.cpu.arrived (pc + 4 + s.cpu.r.get m) jump) ∧
    RunsTo (.jmp m) s (s.cpu.arrived (s.cpu.r.get m) jump) ∧
    RunsTo .rts s (s.cpu.arrived s.cpu.pr jump) ∧
    RunsTo (.bsr d12) s { s.cpu.arrived (pc + (4 : Word) + (sext d12 <<< 1)) jump with pr := pc + 4 } ∧
    RunsTo (.bsrf m) s { s.cpu.arrived (pc + 4 + s.cpu.r.get m) jump with pr := pc + 4 } ∧
    RunsTo (.jsr m) s { s.cpu.arrived (s.cpu.r.get m) jump with pr := pc + 4 } ∧
    (s.cpu.sr.t = true →
      RunsTo (.bts d8) s (s.cpu.arrived (pc + (4 : Word) + (sext d8 <<< 1)) conditional)) ∧
    (s.cpu.sr.t = false →
      RunsTo (.bfs d8) s (s.cpu.arrived (pc + (4 : Word) + (sext d8 <<< 1)) conditional))

/-- What a delayed branch does with any legal slot instruction (R178, R184 to R186), `RTE` included, whose two pops and
restored SR come before its slot (R381): if the slot word decodes to an instruction that may stand in a slot, and that
instruction, executed on the captured state with its own address as pc, completes in `u`, then the branch completes in
`u` with the pc at the captured target and its own cost added. A slot that changes the register, PR, T or R15 that the
branch reads does not move it. -/
def Obligations.delayed_branch_runs_its_slot : Prop :=
  ∀ (s u : State) (i j : Instr) (w : Half) (c : Cpu) (target : Word) (cost : Nat), TakesSlot s i c target cost →
    s.cpu.pc.toNat % 2 = 0 → plainHalf s (s.cpu.pc + 2) = some w → decodeWord w = some j → j.legalInSlot = true →
    exec j (s.mapCpu fun _ => { c with pc := s.cpu.pc + 2 }) = .next u →
    ∃ t, exec i s = .next t ∧ t.cpu = u.cpu.arrived target (cost + u.cpu.cyclesElapsed) ∧ SameOutside u t

/-- `RTE` (R381, R540, R541) with its two longwords in storage and a `NOP` in the slot: the pc is the longword at R15,
SR the one above it masked with 0x3F3, R15 moves up by 8; where an interrupt was in service it no longer is and its
level's flag is clear; its own cost (4) and the slot's one. -/
def Obligations.rte_over_nop : Prop :=
  ∀ (s : State) (target w : Word), s.cpu.pc.toNat % 2 = 0 → plainHalf s (s.cpu.pc + 2) = some 0x0009 →
    plainLong s (s.cpu.r.get 15) = some target → plainLong s (s.cpu.r.get 15 + 4) = some w →
    ∃ sr : SR, sr.toWord = w &&& 0x000003F3 ∧
      RunsTo .rte s
        { s.cpu.arrived target (s.cost .returnException + s.cost .simple) with
          r := s.cpu.r.set 15 (s.cpu.r.get 15 + 8)
          sr := sr
          current := none
          levelInterrupted := match s.cpu.current with
            | none   => s.cpu.levelInterrupted
            | some d => s.cpu.levelInterrupted.set d.level false }

/-- One of the thirteen in the slot of a taken delayed branch, `RTE` included (R178, R180, R181), with the power-on quirk
over: the step halts with the slot's word and address recorded; nothing of the slot instruction is executed; the branch
does not commit its pc; the PR that a call wrote before, and what `RTE` popped, stay. That a halt is a next state is the
model's reading (log 16). -/
def Obligations.illegal_slot_halts : Prop :=
  ∀ (s : State) (i : Instr) (w : Half) (c : Cpu) (target : Word) (cost : Nat), TakesSlot s i c target cost →
    s.cpu.pc.toNat % 2 = 0 → s.cpu.porSlotQuirk = false → plainHalf s (s.cpu.pc + 2) = some w →
    (decodeWord w).any Instr.isIllegalInSlot = true →
    Halts i s c ⟨.illegalSlotInstruction, s.active, w, s.cpu.pc + 2⟩

/-- The other slot words of a taken delayed branch, any of the nine and `RTE`. A word that spells no instruction halts
as a bad opcode at the slot's address, quirk or not (R182, R187); that a halt is a next state, and its pc the slot's
address, is the model's reading (logs 16 and 15). A PC-relative instruction is `fault(pc_relative_in_slot)` (R185).
While the power-on quirk is set the slot check is skipped (R183): a `BT`, a `BF` or a `TRAPA` in the slot runs, its
effect on the pc is overwritten by the outer commit, and the rest of its effect and its cost stay. -/
def Obligations.other_slots : Prop :=
  ∀ (s : State) (i : Instr) (w : Half) (c : Cpu) (target : Word) (cost : Nat), TakesSlot s i c target cost →
    s.cpu.pc.toNat % 2 = 0 → plainHalf s (s.cpu.pc + 2) = some w →
    (decodeWord w = none →
      Halts i s { c with pc := s.cpu.pc + 2 } ⟨.badOpcode, s.active, w, s.cpu.pc + 2⟩) ∧
    (∀ j, decodeWord w = some j → j.isPcRelative = true → exec i s = .fault (.pcRelativeInSlot (s.cpu.pc + 2))) ∧
    (∀ j e u, decodeWord w = some j → j ∈ [.bt e, .bf e, .trapa e] → s.cpu.porSlotQuirk = true →
      exec j (s.mapCpu fun _ => { c with pc := s.cpu.pc + 2 }) = .next u →
      ∃ t, exec i s = .next t ∧ t.cpu = u.cpu.arrived target (cost + u.cpu.cyclesElapsed) ∧ SameOutside u t)

/-! ### Interrupts -/

/-- The acceptance test (R531), in a state where no two pending entries share a level: an interrupt is accepted exactly
when none is in service and it is the pending entry of greatest level, above SR.I. -/
def Obligations.acceptance_test : Prop :=
  ∀ (c : Cpu) (d : Interrupt), (c.pending.map Interrupt.level).Nodup →
    (c.acceptable = some d ↔
      c.current = none ∧ d ∈ c.pending ∧ (∀ e ∈ c.pending, e.level ≤ d.level) ∧ c.sr.i.toNat < d.level.val)

/-- Interrupt entry is the whole step (R534, R536, R530): with a running emulation, no host call due, and an acceptable
interrupt, an aligned stack in writable storage and an aligned vector in storage, the step pushes SR and the pc of the
instruction that has not run, raises SR.I to the level (15 for the NMI's 16), marks the interrupt in service, removes
it from the pending list, ends sleep, and goes to the vector. Its level's flag stays set. -/
def Obligations.interrupt_entry : Prop :=
  ∀ (s : State) (d : Interrupt) (p1 p0 pv : Nat) (w : Bool) (content : Nat → Byte) (pending : List Interrupt),
    s.hostInputs = [] → s.emulationStopped = false → s.cpu.acceptable = some d →
    s.cpu.vbr.toNat % 4 = 0 → (s.cpu.r.get 15).toNat % 4 = 0 →
    s.place (s.cpu.r.get 15 - 4) = .storage p1 true → s.place (s.cpu.r.get 15 - 8) = .storage p0 true →
    s.place (s.cpu.vbr + (zext d.vector <<< 2)) = .storage pv w →
    content = putBytes (putBytes s.mem.read p1 4 s.cpu.sr.toWord) p0 4 s.cpu.pc →
    pending = s.cpu.pending.erase d →
    ∃ t, step s = .next t ∧ SameOutsideMemory s t ∧ (∀ q, t.mem.read q = content q) ∧
      t.cpu = { s.cpu with
        r := s.cpu.r.set 15 (s.cpu.r.get 15 - 8)
        pc := content pv ++ content (pv + 1) ++ content (pv + 2) ++ content (pv + 3)
        sr := { s.cpu.sr with i := if d.level = 16 then 15 else BitVec.ofNat 4 d.level.val }
        pending := pending
        current := some d
        sleeping := false
        cyclesElapsed := s.config.intEntryCycles }

/-- `sendInterrupt` (R520): a descriptor of level 0, or of a level whose flag is set, is dropped without a trace;
otherwise the flag is set and the descriptor appended. Nothing else of either CPU changes, and the call is one step. -/
def Obligations.send_interrupt : Prop :=
  ∀ (s : State) (c : CpuId) (d : Interrupt) (rest : List HostAction),
    s.hostInputs = .sendInterrupt c d :: rest → s.emulationStopped = false →
    ∃ t, step s = .next t ∧ (∀ o, o ≠ c → t.cpuOf o = s.cpuOf o) ∧ t.hostInputs = rest ∧ t.mem = s.mem ∧
      t.scu = s.scu ∧ t.cd = s.cd ∧
      ((d.level = 0 ∨ (s.cpuOf c).levelFlag d.level = true) → t.cpuOf c = s.cpuOf c) ∧
      (d.level ≠ 0 → (s.cpuOf c).levelFlag d.level = false →
        t.cpuOf c = { s.cpuOf c with
          pending := (s.cpuOf c).pending ++ [d]
          levelInterrupted := (s.cpuOf c).levelInterrupted.set d.level true })

/-- `ScuRaise` (R522): the source's IST bit is set always and no other; the interrupt is sent, to the master, only when
the source's IMS bit is 0 at that moment; IMS and the other SCU registers are unchanged. And the table of R524: the
vector, the level, the IMS bit and the IST bit of each source; the NMI has vector 11 and level 16, and nothing else has
level 16. -/
def Obligations.scu_raise : Prop :=
  (∀ (s t : State) (src : ScuSource), t = s.scuRaise src →
    (∀ k, k < 32 → t.scu.ist.getLsbD k = (s.scu.ist.getLsbD k || k == src.statusBit)) ∧
    t = { s with scu := { s.scu with ist := t.scu.ist }, master := t.master } ∧
    (s.scu.ims.getLsbD src.maskBit = true → t.master = s.master) ∧
    (s.scu.ims.getLsbD src.maskBit = false → t.master = s.master.sendInterrupt (.scu src))) ∧
  (∀ (src : ScuSource) (vector : Byte) (level : Fin 17) (bit : Nat),
    (src, vector, level, bit) ∈ [(.vBlankIn, 0x40, 15, 0), (.vBlankOut, 0x41, 14, 1), (.hBlankIn, 0x42, 13, 2),
      (.timer0, 0x43, 12, 3), (.timer1, 0x44, 11, 4), (.dspEnd, 0x45, 10, 5), (.soundRequest, 0x46, 9, 6),
      (.systemManager, 0x47, 8, 7), (.padInterrupt, 0x48, 8, 8), (.level2DmaEnd, 0x49, 6, 9),
      (.level1DmaEnd, 0x4A, 6, 10), (.level0DmaEnd, 0x4B, 5, 11), (.dmaIllegal, 0x4C, 3, 12),
      (.spriteDrawEnd, 0x4D, 2, 13)] →
    (Interrupt.scu src).vector = vector ∧ (Interrupt.scu src).level = level ∧ src.maskBit = bit ∧ src.statusBit = bit) ∧
  (∀ n : Fin 16, (Interrupt.scu (.external n)).vector.toNat = 0x50 + n ∧
    (Interrupt.scu (.external n)).level = (if n.val ≤ 3 then 7 else if n.val ≤ 7 then 4 else 1) ∧
    (ScuSource.external n).maskBit = 15 ∧ (ScuSource.external n).statusBit = 16 + n) ∧
  Interrupt.nmi.vector = 11 ∧ ∀ d : Interrupt, d.level = 16 ↔ d = .nmi

/-- The interrupt bookkeeping of R544 is kept by every step. -/
def Obligations.interrupt_invariant_kept : Prop :=
  ∀ s t : State, s.interruptsConsistent → step s = .next t → t.interruptsConsistent

/-! ### Memory and the bus -/

/-- Storage, both on-chip blocks: the canonical form is kept by every step. -/
def Obligations.memory_invariant_kept : Prop :=
  ∀ s t : State, s.memoryCanonical → step s = .next t → t.memoryCanonical

/-- In canonical form equal contents are equal data. -/
def Obligations.canonical_memory_is_unique : Prop :=
  ∀ a b : Memory, a.wf = true → b.wf = true → (∀ q, a.read q = b.read q) → a = b

/-- A longword store to writable storage is read back by byte, word and longword, most significant byte first (R83, R85,
R86). -/
def Obligations.mixed_width_is_big_endian : Prop :=
  ∀ (s : State) (a v : Word) (p : Nat), a.toNat % 4 = 0 → s.place a = .storage p true →
    s.place (a + 1) = .storage (p + 1) true → s.place (a + 2) = .storage (p + 2) true →
    ∃ t, memWrite32 a v s = .next t ∧ memRead32 a t = .next (v, t) ∧
      memRead8 a t = .next (v.extractLsb' 24 8, t) ∧ memRead8 (a + 1) t = .next (v.extractLsb' 16 8, t) ∧
      memRead16 a t = .next (v.extractLsb' 16 16, t) ∧ memRead16 (a + 2) t = .next (v.extractLsb' 0 16, t)

/-- Unmapped addresses and ROM (R87): an aligned read of an unmapped address returns 0 and changes nothing; an aligned
write to an unmapped or read-only address changes nothing. Device registers at another width are refused (R88): the
SCU at 8 and 16 bits, the CD block's registers at 8 and 32 bits. -/
def Obligations.unmapped_rom_and_device_widths : Prop :=
  ∀ (s : State) (a : Word) (off : Nat),
    (s.place a = .unmapped → memRead8 a s = .next (0, s) ∧ (a.toNat % 2 = 0 → memRead16 a s = .next (0, s)) ∧
      (a.toNat % 4 = 0 → memRead32 a s = .next (0, s))) ∧
    ((s.place a = .unmapped ∨ ∃ p, s.place a = .storage p false) →
      (∀ v, memWrite8 a v s = .next s) ∧ (∀ v, a.toNat % 2 = 0 → memWrite16 a v s = .next s) ∧
      (∀ v, a.toNat % 4 = 0 → memWrite32 a v s = .next s)) ∧
    (s.place a = .scu off →
      memRead8 a s = .refused (.deviceWidth a 1) ∧ (∀ v, memWrite8 a v s = .refused (.deviceWidth a 1)) ∧
      (a.toNat % 2 = 0 → memRead16 a s = .refused (.deviceWidth a 2) ∧
        ∀ v, memWrite16 a v s = .refused (.deviceWidth a 2))) ∧
    (s.place a = .cdBlock off → off ∈ [0x90008, 0x9000C, 0x90018, 0x9001C, 0x90020, 0x90024] →
      memRead8 a s = .refused (.deviceWidth a 1) ∧ (∀ v, memWrite8 a v s = .refused (.deviceWidth a 1)) ∧
      (a.toNat % 4 = 0 → memRead32 a s = .refused (.deviceWidth a 4) ∧
        ∀ v, memWrite32 a v s = .refused (.deviceWidth a 4)))

/-- The default map and the mirrors (R96, R97): an address of space 001 leads where the same one of space 000 leads;
the spaces 010 to 110 are unmapped; and, with the default map, boot ROM, the two work RAMs, the CD registers, the SCU
registers and the on-chip block are where R96 puts them. -/
def Obligations.address_map : Prop :=
  ∀ (s : State) (a : Word),
    (a.toNat < 0x20000000 → s.place (a + 0x20000000) = s.place a) ∧
    (0x40000000 ≤ a.toNat → a.toNat < 0xE0000000 → s.place a = .unmapped) ∧
    (0xFFFFFE00 ≤ a.toNat → s.place a = .onChip (a.toNat - 0xFFFFFE00)) ∧
    (s.config.memMap = defaultMemMap →
      (a.toNat < 0x00100000 → s.place a = .storage a.toNat false) ∧
      (0x00200000 ≤ a.toNat → a.toNat < 0x00300000 → s.place a = .storage a.toNat true) ∧
      (0x06000000 ≤ a.toNat → a.toNat < 0x06100000 → s.place a = .storage a.toNat true) ∧
      (0x05800000 ≤ a.toNat → a.toNat < 0x05900000 → s.place a = .cdBlock (a.toNat - s.config.cdBase)) ∧
      (0x05FE0000 ≤ a.toNat → a.toNat < 0x05FE00D0 → s.place a = .scu (a.toNat - 0x05FE0000)) ∧
      (0x06100000 ≤ a.toNat → a.toNat < 0x08000000 → s.place a = .unmapped))

/-- The on-chip registers. The interrupt controller's (R43): a store at the register's width and a load give the value
masked to its implemented bits; ICR reads the NMI pin in bit 15 whatever is written; nothing but the controller of the
active CPU changes, and every other register of the table reads as before. The other on-chip addresses are byte latches
(R44; log 3): a store and a load of any width that touch no register of the table give the value back, most significant
byte first, and every latch outside it reads as before. -/
def Obligations.interrupt_controller_latches : Prop :=
  ∀ (s : State) (a w : Word) (h m : Half) (v : Byte),
    ((a, m) ∈ intcHalves → ∃ t, memWrite16 a h s = .next t ∧ SameOutside s t ∧ t.cpu = { s.cpu with intc := t.cpu.intc } ∧
      memRead16 a t = .next ((h &&& m) ||| (if a = 0xFFFFFEE0 ∧ s.cpu.nmiPin = true then 0x8000 else 0), t) ∧
      (∀ b ∈ intcHalves.map Prod.fst, b ≠ a → ∀ x, memRead16 b s = .next (x, s) → memRead16 b t = .next (x, t)) ∧
      (∀ b ∈ intcWords, ∀ x, memRead32 b s = .next (x, s) → memRead32 b t = .next (x, t))) ∧
    (a ∈ intcWords → ∃ t, memWrite32 a w s = .next t ∧ SameOutside s t ∧ t.cpu = { s.cpu with intc := t.cpu.intc } ∧
      memRead32 a t = .next (w, t) ∧
      (∀ b ∈ intcHalves.map Prod.fst, ∀ x, memRead16 b s = .next (x, s) → memRead16 b t = .next (x, t)) ∧
      (∀ b ∈ intcWords, b ≠ a → ∀ x, memRead32 b s = .next (x, s) → memRead32 b t = .next (x, t))) ∧
    (onChipLatch a = true → ∃ t, memWrite8 a v s = .next t ∧ SameOutside s t ∧
      t.cpu = { s.cpu with onChip := t.cpu.onChip } ∧ memRead8 a t = .next (v, t) ∧
      ∀ b, onChipLatch b = true → b ≠ a → ∀ x, memRead8 b s = .next (x, s) → memRead8 b t = .next (x, t)) ∧
    (a.toNat % 2 = 0 → onChipLatch a = true → onChipLatch (a + 1) = true →
      ∃ t, memWrite16 a h s = .next t ∧ SameOutside s t ∧ t.cpu = { s.cpu with onChip := t.cpu.onChip } ∧
        memRead16 a t = .next (h, t) ∧ memRead8 a t = .next (h.extractLsb' 8 8, t) ∧
        memRead8 (a + 1) t = .next (h.extractLsb' 0 8, t) ∧
        ∀ b, onChipLatch b = true → b ≠ a → b ≠ a + 1 → ∀ x, memRead8 b s = .next (x, s) → memRead8 b t = .next (x, t)) ∧
    (a.toNat % 4 = 0 → (∀ k < 4, onChipLatch (a + BitVec.ofNat 32 k) = true) →
      ∃ t, memWrite32 a w s = .next t ∧ SameOutside s t ∧ t.cpu = { s.cpu with onChip := t.cpu.onChip } ∧
        memRead32 a t = .next (w, t) ∧
        (∀ k < 4, memRead8 (a + BitVec.ofNat 32 k) t = .next (w.extractLsb' (8 * (3 - k)) 8, t)) ∧
        ∀ b, onChipLatch b = true → (∀ k < 4, b ≠ a + BitVec.ofNat 32 k) →
          ∀ x, memRead8 b s = .next (x, s) → memRead8 b t = .next (x, t))

/-- The unassigned bits of the device registers read 0 after every step, if they did before. For the SCU's this follows
R401 against the summary row U16 (log 11). -/
def Obligations.reserved_bits_kept_clear : Prop :=
  ∀ s t : State, s.reservedClear → step s = .next t → t.reservedClear

/-! ### The SCU -/

/-- `write32` and `read32` of every SCU register where no transfer is triggered (R401, R403, R523): the value read back
is the one written, masked as R46 to R53 say, the model's reading against the summary row U16 (log 11), the counts by
`DMA_COUNT_BITS`; IST is ANDed; the fifteen registers that R45 marks 'no' are latches of 32 bits (log 14). No other
register changes, and an offset without a register takes nothing and reads 0. -/
def Obligations.scu_register_masks : Prop :=
  ∀ (s : State) (a v mask : Word) (off : Nat) (countMask : Fin 3 → Word), a.toNat % 4 = 0 → s.place a = .scu off →
    (∀ l, countMask l = BitVec.ofNat 32 (2 ^ s.config.dmaCountBits.at l - 1)) →
    ((off, mask) ∈ [(0x00, 0x07FFFFFF), (0x04, 0x07FFFFFF), (0x08, countMask 0), (0x0C, 0x00000107), (0x10, 0x00000101),
        (0x14, 0x01010107), (0x20, 0x07FFFFFF), (0x24, 0x07FFFFFF), (0x28, countMask 1), (0x2C, 0x00000107),
        (0x30, 0x00000101), (0x34, 0x01010107), (0x40, 0x07FFFFFF), (0x44, 0x07FFFFFF), (0x48, countMask 2),
        (0x4C, 0x00000107), (0x50, 0x00000101), (0x54, 0x01010107), (0xA0, 0x0000BFFF)] →
      (off ∈ [0x10, 0x30, 0x50] → v.getLsbD 8 = false) →
      ∃ t, memWrite32 a v s = .next t ∧ memRead32 a t = .next (v &&& mask, t) ∧ OnlyScuRegister off s t) ∧
    (off = 0xA4 →
      ∃ t, memWrite32 a v s = .next t ∧ memRead32 a t = .next (s.scu.ist &&& v, t) ∧ OnlyScuRegister off s t) ∧
    (off ∈ [0x60, 0x7C, 0x80, 0x84, 0x88, 0x8C, 0x90, 0x94, 0x98, 0xA8, 0xB0, 0xB4, 0xB8, 0xC4, 0xC8] →
      ∃ t, memWrite32 a v s = .next t ∧ memRead32 a t = .next (v, t) ∧ OnlyScuRegister off s t) ∧
    (off ∈ [0x18, 0x1C, 0x38, 0x3C, 0x58, 0x5C, 0x64, 0x68, 0x6C, 0x70, 0x74, 0x78, 0x9C, 0xAC, 0xBC, 0xC0] →
      memWrite32 a v s = .next s ∧ memRead32 a s = .next (0, s))

/-- The enable write of a channel (R402 to R405, R409): the configuration is the snapshot of the channel's registers,
field by field, the count by `DMA_COUNT_BITS` and the write-add value by `SCU_WRITE_ADD_MODE` (R416); with the DMA-start
factor 7 it is queued, with another it waits; it stands behind every entry of its level and before every higher one;
nothing else changes; and the write answers what `activateDma` then answers, which is that state where the head of the
queue is not queued (R408). -/
def Obligations.enable_write_queues : Prop :=
  ∀ (s : State) (level : Fin 3) (v : Word) (low high : List DmaConfig) (c : DmaChannel), v.getLsbD 8 = true →
    c = s.scu.channel level → s.scu.queue = low ++ high →
    (∀ e ∈ low, e.level ≤ level) → (∀ e ∈ high, level < e.level) →
    ∃ u cfg, scuWrite32 (0x20 * level.val + 0x10) v s = activateDma u ∧
      ((∀ e ∈ (low ++ cfg :: high).head?, e.status ≠ .queued) → activateDma u = .next u) ∧
      u = { s with scu := { s.scu with channels := u.scu.channels, queue := low ++ cfg :: high } } ∧
      (∀ l, l ≠ level → u.scu.channel l = s.scu.channel l) ∧
      u.scu.channel level = { c with enable := v &&& 0x00000101 } ∧
      cfg =
        { level := level
          status := if c.mode.toNat % 8 = 7 then .queued else .waitingStartFactor
          readAddress := c.readAddr &&& 0x07FFFFFF
          writeAddress := c.writeAddr &&& 0x07FFFFFF
          transferByteNumber := (c.count &&& BitVec.ofNat 32 (2 ^ s.config.dmaCountBits.at level - 1)).setWidth 20
          readAddValue := if c.addValue.getLsbD 8 = true then 4 else 0
          writeAddValue := if s.config.writeAddMode = .sourceCompatible then 128
            else [0, 2, 4, 8, 16, 32, 64, 128].getD (c.addValue.toNat % 8) 0
          dmaEnable := true
          dmaStart := v.getLsbD 0
          dmaMode := if c.mode.getLsbD 24 = true then .indirect else .direct
          readAddressUpdate := if c.mode.getLsbD 16 = true then .update else .hold
          writeAddressUpdate := if c.mode.getLsbD 8 = true then .update else .hold
          startingFactorSelect := c.mode.extractLsb' 0 3 }

/-- The queue and its direct transfers. A head that is not queued stops `activateDma` (R408); a queued head is removed
and executed, and the queue then runs on from what that leaves (R407). A direct transfer (R410 to R412, R414 to R416,
R420, R428 to R430) to a known bus, every byte of which the bus answers, completes: storage is as `dmaContent` says, for
both write-add modes, the CS2 stride and overlapping sources; the address registers move on if asked to, to where the
next group and the next byte would be; the transfer ends as `DmaEnded` says (the IST bit, the end interrupt to the master
by IMS, the enable bit for the DMA-start factor), the rest of the queue stays, and nothing else changes; where the next
entry is not queued that is all. -/
def Obligations.direct_transfer_copies : Prop :=
  (∀ s : State, (∀ e ∈ s.scu.queue.head?, e.status ≠ .queued) → activateDma s = .next s) ∧
  (∀ (s popped : State) (cfg : DmaConfig) (rest : List DmaConfig),
    s.scu.queue = cfg :: rest → cfg.status = .queued → popped = { s with scu := { s.scu with queue := rest } } →
    (∀ u, executeDma cfg popped = .next u → activateDma s = activateDma u) ∧
    (∀ (count : Nat) (read write : Word), cfg.dmaMode = .direct →
      getDmaBus s.config.rangeMode cfg.writeAddress ≠ .unknownBus →
      count = (if cfg.transferByteNumber = 0 then s.config.dmaZeroCount else cfg.transferByteNumber.toNat) →
      DmaAnswers s cfg cfg.readAddress cfg.writeAddress count →
      read = (if cfg.readAddressUpdate = .hold then (s.scu.channel cfg.level).readAddr
        else dmaReadAt cfg cfg.readAddress ((count + 3) / 4 * 4) &&& 0x07FFFFFF) →
      write = (if cfg.writeAddressUpdate = .hold then (s.scu.channel cfg.level).writeAddr
        else dmaWriteAt s cfg cfg.writeAddress count &&& 0x07FFFFFF) →
      ∃ t, executeDma cfg popped = .next t ∧
        (∀ q, t.mem.read q = dmaContent s cfg cfg.readAddress cfg.writeAddress count q) ∧
        DmaEnded cfg read write popped t ∧ ((∀ e ∈ rest.head?, e.status ≠ .queued) → activateDma s = .next t)))

/-- An indirect transfer (R421, R422, R425, R426, R428 to R431) completes for every chain of at most 2^30 descriptors, the
bound being the model's (log 9): the words at the pointer, +4 and +8 are the count, the write address and the read
address; each descriptor's bytes move as in a direct transfer, none to an unknown bus; without the end code in the read
address the pointer goes on by 12; an update of the write address keeps the pointer to the last descriptor, and the read
address register stays; the transfer ends as `DmaEnded` says (the IST bit, the end interrupt to the master by IMS, the
enable bit for the DMA-start factor); nothing else changes. -/
def Obligations.indirect_transfer_follows_its_chain : Prop :=
  ∀ (s u : State) (cfg : DmaConfig) (n : Nat) (last write : Word), cfg.dmaMode = .indirect →
    DmaChain cfg n s cfg.writeAddress u last → n ≤ 2 ^ 30 →
    write = (if cfg.writeAddressUpdate = .hold then (s.scu.channel cfg.level).writeAddr else last &&& 0x07FFFFFF) →
    ∃ t, executeDma cfg s = .next t ∧ (∀ q, t.mem.read q = u.mem.read q) ∧
      DmaEnded cfg (s.scu.channel cfg.level).readAddr write s t

/-- A start event (R406, R407, R51): every entry that waits for this factor is queued and no other entry changes; when
the head is then not queued nothing more happens, and otherwise the queue runs from its head. -/
def Obligations.start_event_releases : Prop :=
  ∀ (s : State) (e : StartEvent) (rest : List HostAction) (released : List DmaConfig) (u : State),
    s.hostInputs = .startFactor e :: rest → s.emulationStopped = false →
    released.length = s.scu.queue.length →
    (∀ p ∈ s.scu.queue.zip released,
      p.2 = if p.1.status = .waitingStartFactor ∧ p.1.startingFactorSelect = (match e with
          | .vBlankIn => 0 | .vBlankOut => 1 | .hBlankIn => 2 | .timer0 => 3 | .timer1 => 4
          | .soundRequest => 5 | .spriteDrawEnd => 6)
        then { p.1 with status := .queued } else p.1) →
    u = { s with hostInputs := rest, scu := { s.scu with queue := released } } →
    step s = activateDma u ∧ ((∀ c ∈ released.head?, c.status ≠ .queued) → step s = .next u)

/-- The bus classes of R413 for both settings of the range parameter; and a transfer to an unknown bus (R411, R421,
R431), direct, or indirect by one descriptor: no byte moves and, but for the pointer that an indirect transfer keeps if
asked to, no address register changes; yet the transfer ends as `DmaEnded` says (the IST bit, the end interrupt to the
master by IMS, the enable bit for the DMA-start factor), and nothing else changes. -/
def Obligations.dma_buses : Prop :=
  (∀ (mode : RangeMode) (a : Word) (x last : Nat), x = (a &&& 0x0FFFFFFF).toNat →
    last = (if mode = .sourceRanges then 0x05FFFFFF else 0x05FDFFFF) →
    (getDmaBus mode a = .bBus ↔ 0x05A00000 ≤ x ∧ x ≤ last) ∧
    (getDmaBus mode a = .aBus ↔ 0x02000000 ≤ x ∧ x ≤ 0x058FFFFF) ∧
    (getDmaBus mode a = .cpuBus ↔ 0x06000000 ≤ x ∧ x ≤ 0x07FFFFFF)) ∧
  (∀ (s : State) (cfg : DmaConfig), cfg.dmaMode = .direct →
    getDmaBus s.config.rangeMode cfg.writeAddress = .unknownBus →
    ∃ t, executeDma cfg s = .next t ∧ t.mem = s.mem ∧
      DmaEnded cfg (s.scu.channel cfg.level).readAddr (s.scu.channel cfg.level).writeAddr s t) ∧
  (∀ (s : State) (cfg : DmaConfig) (src dst len write : Word), cfg.dmaMode = .indirect →
    plainLong s cfg.writeAddress = some len → plainLong s (cfg.writeAddress + 4) = some dst →
    plainLong s (cfg.writeAddress + 8) = some src → src &&& s.config.dmaEndCode ≠ 0 →
    getDmaBus s.config.rangeMode (dst &&& 0x07FFFFFF) = .unknownBus →
    write = (if cfg.writeAddressUpdate = .hold then (s.scu.channel cfg.level).writeAddr
      else cfg.writeAddress &&& 0x07FFFFFF) →
    ∃ t, executeDma cfg s = .next t ∧ t.mem = s.mem ∧ DmaEnded cfg (s.scu.channel cfg.level).readAddr write s t)

/-- The DMA queue stays sorted by level, with no entry in it that is active or finished, through every step (R56, R405,
R408). -/
def Obligations.queue_invariant_kept : Prop :=
  ∀ s t : State, s.queueOrdered → step s = .next t → t.queueOrdered

/-! ### The CD block -/

/-- A 16-bit store to CR4 executes the command in CR1[15:8] exactly once (R443, R453, R454, R461 to R466, R470, R471):
the status byte in CR1[15:8] and the payload of the parameters, CMOK set, and EFLS by `abort_file` if its parameter says
so; an unimplemented code leaves CR1 to CR3 and HIRQ alone and CR4 as written; the counter goes up by one, and beyond
the limit CMOK ends clear. Nothing else changes, in the block or outside it. Before the handshake this holds where the
model's own parameter `cdEarlyCommand` takes the reading of R450 to R453; where it takes that of U17 and R564 the store
changes CR4 and nothing else (log 12). -/
def Obligations.cd_commands : Prop :=
  ∀ (s : State) (a : Word) (v : Half) (cmd st : Byte) (busy : Half) (c : Cd),
    s.place a = .cdBlock 0x90024 → a.toNat % 2 = 0 →
    c = s.cd → cmd = c.cr1.extractLsb' 8 8 → st = c.driveStatus →
    busy = (if c.executedCommands + 1 > c.maxCommands then 0xFFFE else 0xFFFF) →
    (c.initializationDone = false → s.config.cdEarlyCommand = .ignored →
      memWrite16 a v s = .next { s with cd := { c with cr4 := v } }) ∧
    (c.initializationDone = true ∨ s.config.cdEarlyCommand = .executed →
      ∃ d, memWrite16 a v s = .next { s with cd := d } ∧
        d = { c with
          cr1 := d.cr1, cr2 := d.cr2, cr3 := d.cr3, cr4 := d.cr4, hirq := d.hirq
          executedCommands := c.executedCommands + 1, commandBeingInitialized := false } ∧
        (cmd = 0x00 → d.cr1 = st ++ s.config.cdReportB1 ∧ d.cr2 = s.config.cdReportW2 ∧
          d.cr3 = s.config.cdReportW3 ∧ d.cr4 = s.config.cdReportW4) ∧
        (cmd = 0x01 → d.cr1 = st ++ 0x00#8 ∧ d.cr2 = s.config.cdHwInfoW2 ∧
          d.cr3 = s.config.cdHwInfoW3 ∧ d.cr4 = s.config.cdHwInfoW4) ∧
        (cmd = 0x06 → d.cr1 = st ++ 0xFF#8 ∧ d.cr2 = 0xFFFF ∧ d.cr3 = 0 ∧ d.cr4 = 0) ∧
        (cmd = 0x67 → d.cr1 = st ++ 0x00#8 ∧ d.cr2 = 0 ∧ d.cr3 = 0 ∧ d.cr4 = 0) ∧
        (cmd = 0x75 → d.cr1 = st ++ s.config.cdReportB1 ∧ d.cr2 = s.config.cdReportW2 ∧
          d.cr3 = s.config.cdReportW3 ∧ d.cr4 = s.config.cdReportW4 ∧
          d.hirq = (c.hirq ||| (if s.config.cdAbortSetsEfls then 0x0201 else 0x0001)) &&& busy) ∧
        (cmd = 0xE1 → d.cr1 = st ++ 0x00#8 ∧ d.cr2 = s.config.cdAuthStatus ∧ d.cr3 = 0 ∧ d.cr4 = 0) ∧
        (cmd ∈ [0x00, 0x01, 0x06, 0x67, 0xE1] → d.hirq = (c.hirq ||| 0x0001) &&& busy) ∧
        (cmd ∉ [0x00, 0x01, 0x06, 0x67, 0x75, 0xE1] →
          d.cr1 = c.cr1 ∧ d.cr2 = c.cr2 ∧ d.cr3 = c.cr3 ∧ d.cr4 = v ∧ d.hirq = c.hirq &&& busy))

/-- The CD block's other registers (R442 to R444, R452): a write of HIRQ can only clear flags; the mask is a latch; CR1
to CR3 latch and mark a command as being written, unless the model's own parameter has commands ignored before the
handshake, and then they only latch (log 12); of the reads only CR4's has an effect, the end of initialisation. -/
def Obligations.cd_registers : Prop :=
  ∀ (s : State) (a : Word) (v : Half) (writing : Bool), a.toNat % 2 = 0 →
    (writing = true ↔ s.cd.commandBeingInitialized = true ∨ s.cd.initializationDone = true ∨
      s.config.cdEarlyCommand = .executed) →
    (s.place a = .cdBlock 0x90008 →
      memRead16 a s = .next (s.cd.hirq, s) ∧
      memWrite16 a v s = .next { s with cd := { s.cd with hirq := s.cd.hirq &&& v } }) ∧
    (s.place a = .cdBlock 0x9000C →
      memRead16 a s = .next (s.cd.hirqMask, s) ∧
      memWrite16 a v s = .next { s with cd := { s.cd with hirqMask := v } }) ∧
    (s.place a = .cdBlock 0x90018 →
      memRead16 a s = .next (s.cd.cr1, s) ∧
      memWrite16 a v s = .next { s with cd := { s.cd with cr1 := v, commandBeingInitialized := writing } }) ∧
    (s.place a = .cdBlock 0x9001C →
      memRead16 a s = .next (s.cd.cr2, s) ∧
      memWrite16 a v s = .next { s with cd := { s.cd with cr2 := v, commandBeingInitialized := writing } }) ∧
    (s.place a = .cdBlock 0x90020 →
      memRead16 a s = .next (s.cd.cr3, s) ∧
      memWrite16 a v s = .next { s with cd := { s.cd with cr3 := v, commandBeingInitialized := writing } }) ∧
    (s.place a = .cdBlock 0x90024 →
      memRead16 a s = .next (s.cd.cr4, { s with cd := { s.cd with initializationDone := true } }))

/-- `run(cycles)` as a step of the host (R475): nothing before CR4 has been read; else the countdown goes down, and at
zero or below the counter is cleared, CMOK set and the countdown reloaded, and, unless a command is being written, the
status is published with SCDQ set. That the tick sets CMOK, reloads the countdown and publishes the status is the
model's choice of R475 against the summary row V11 (log 13). -/
def Obligations.cd_periodic_tick : Prop :=
  ∀ (s : State) (n : Nat) (rest : List HostAction) (c : Cd), s.hostInputs = .cdRun n :: rest →
    s.emulationStopped = false → c = s.cd →
    ∃ t, step s = .next t ∧ t = { s with hostInputs := rest, cd := t.cd } ∧
      (c.initializationDone = false → t.cd = c) ∧
      (c.initializationDone = true → 0 < c.elapsedCycles - n →
        t.cd = { c with elapsedCycles := c.elapsedCycles - n }) ∧
      (c.initializationDone = true → c.elapsedCycles - n ≤ 0 → c.commandBeingInitialized = true →
        t.cd = { c with
          executedCommands := 0, hirq := c.hirq ||| 0x0001, elapsedCycles := c.periodicDuration }) ∧
      (c.initializationDone = true → c.elapsedCycles - n ≤ 0 → c.commandBeingInitialized = false →
        t.cd = { c with
          executedCommands := 0, hirq := c.hirq ||| 0x0401, elapsedCycles := c.periodicDuration
          cr1 := c.driveStatus ++ s.config.cdReportB1, cr2 := s.config.cdReportW2
          cr3 := s.config.cdReportW3, cr4 := s.config.cdReportW4 })

/-! ### Bit fields, reset, the whole machine -/

/-- The bit-field primitive (R151 to R153, R155): after `set` with a value that fits, `get` gives it and every bit
outside the range is what it was; bits of a value above the width are dropped; `reset` clears the range alone. -/
def Obligations.bit_fields : Prop :=
  ∀ (n : Nat) (f : BitRange n) (reg v : BitVec n) (k : Nat), k < n →
    (f.set reg v).getLsbD k =
      (if f.first ≤ k ∧ k ≤ f.last then v.getLsbD (k - f.first) else reg.getLsbD k) ∧
    (f.reset reg).getLsbD k = (if f.first ≤ k ∧ k ≤ f.last then false else reg.getLsbD k) ∧
    (v.toNat < 2 ^ f.width → (f.get (f.set reg v)).toNat = v.toNat)

/-- The state after reset (R561, R445, R446): the values the spec states, each register of the interrupt controllers, of
the SCU and of the CD block among them, the CD block's by the parameters where it names one. Vectors 0 and 1 read from a
memory that lists nothing are 0 by the model's choice (log 5), so the pc and R15 are said to be what the memory holds
there. And the values that R10 gives the parameters that are not open. -/
def Obligations.reset_state : Prop :=
  let s := State.reset
  (∀ c, (s.cpuOf c).sr.i = 15 ∧ (s.cpuOf c).vbr = 0 ∧ (s.cpuOf c).pending = [] ∧ (s.cpuOf c).current = none ∧
    (∀ l, (s.cpuOf c).levelFlag l = false) ∧ (s.cpuOf c).sleeping = false ∧ (s.cpuOf c).porSlotQuirk = true ∧
    (s.cpuOf c).cyclesElapsed = 0 ∧ (s.cpuOf c).intc = ⟨0, 0, 0, 0, 0, 0, 0, 0, 0, 0, 0⟩ ∧
    memRead32 0 s = .next ((s.cpuOf c).pc, s) ∧ memRead32 4 s = .next ((s.cpuOf c).r.get 15, s)) ∧
  (∀ level, s.scu.channel level = ⟨0, 0, 0, 0x101, 0, 7⟩) ∧ s.scu.ims = 0xBFFF ∧ s.scu.ist = 0 ∧ s.scu.queue = [] ∧
  (∀ l, s.scu.latches.get l = 0) ∧
  s.cd.cr1 = 0x0043 ∧ s.cd.cr2 = 0x4442 ∧ s.cd.cr3 = 0x4C4F ∧ s.cd.cr4 = 0x434B ∧ s.cd.hirqMask = 0 ∧
  s.cd.hirq = s.config.hirqReset ∧ s.cd.hirq.getLsbD 0 = true ∧ s.cd.hirq.getLsbD 1 = true ∧
  s.cd.commandBeingInitialized = false ∧ s.cd.initializationDone = false ∧ s.cd.executedCommands = 0 ∧
  s.cd.playMode = s.config.cdPlayModeReset ∧ s.cd.maxCommands = s.config.cdMaxCommands.at s.cd.playMode ∧
  s.cd.periodicDuration = s.config.cdPeriod.at s.cd.playMode ∧ s.cd.elapsedCycles = s.cd.periodicDuration ∧
  s.cd.driveStatus = s.config.cdStatusReset ∧ s.emulationStopped = false ∧
  s.config.cdBase = 0x05800000 ∧ s.config.macwSatSetsMachLsb = true ∧ s.config.maclSat = .clamp48 ∧
  s.config.pcRelInSlot = .fault ∧ s.config.dmaCountBits = ⟨20, 12⟩ ∧ s.config.dmaZeroCount = 0x100000 ∧
  s.config.dmaEndCode = 0x80000000 ∧ s.config.cycles = ⟨1, 2, 3, 3, 4, 3, 2, 3, 1, 2, 1, 2, 4, 8, 3⟩

/-- The invariants hold after reset. -/
def Obligations.reset_meets_the_invariants : Prop :=
  State.reset.interruptsConsistent ∧ State.reset.memoryCanonical ∧ State.reset.reservedClear ∧ State.reset.queueOrdered

/-- The resets that the host calls, each a step (R560). `powerOnReset()` of a CPU (R563), with the two vectors in storage
or unmapped: pc and R15 are the vectors, the stated registers have R561's values, and nothing changes but that CPU and
the model's counter of free values (log 7); what it leaves unspecified is not stated. `reset()` of the SCU (R562): every
register at R561's value and the queue emptied. `reset()` of the CD block (R445, R446): its values, by the parameters.
Nothing else changes. -/
def Obligations.resets_called_by_the_host : Prop :=
  ∀ (s : State) (rest : List HostAction), s.emulationStopped = false →
    (∀ (c : CpuId) (pc sp : Word), s.hostInputs = .resetCpu c :: rest →
      plainLong s 0 = some pc → plainLong s 4 = some sp →
      ∃ t, step s = .next t ∧ (t.cpuOf c).pc = pc ∧ (t.cpuOf c).r.get 15 = sp ∧ (t.cpuOf c).vbr = 0 ∧
        (t.cpuOf c).sr.i = 15 ∧ (t.cpuOf c).pending = [] ∧ (t.cpuOf c).current = none ∧
        (∀ l, (t.cpuOf c).levelFlag l = false) ∧ (t.cpuOf c).sleeping = false ∧ (t.cpuOf c).cyclesElapsed = 0 ∧
        (t.cpuOf c).porSlotQuirk = true ∧ (t.cpuOf c).intc = ⟨0, 0, 0, 0, 0, 0, 0, 0, 0, 0, 0⟩ ∧
        (∀ o, o ≠ c → t.cpuOf o = s.cpuOf o) ∧
        t = { s with hostInputs := rest, master := t.master, slave := t.slave, draws := t.draws }) ∧
    (s.hostInputs = .resetScu :: rest →
      ∃ t, step s = .next t ∧ t = { s with hostInputs := rest, scu := t.scu } ∧
        (∀ level, t.scu.channel level = ⟨0, 0, 0, 0x00000101, 0, 0x00000007⟩) ∧ t.scu.ims = 0x0000BFFF ∧
        t.scu.ist = 0 ∧ (∀ l, t.scu.latches.get l = 0) ∧ t.scu.queue = []) ∧
    (s.hostInputs = .resetCd :: rest →
      step s = .next { s with
        hostInputs := rest
        cd :=
          { hirq := s.config.hirqReset, hirqMask := 0
            cr1 := 0x0043, cr2 := 0x4442, cr3 := 0x4C4F, cr4 := 0x434B
            commandBeingInitialized := false, initializationDone := false, executedCommands := 0
            maxCommands := s.config.cdMaxCommands.at s.config.cdPlayModeReset
            periodicDuration := s.config.cdPeriod.at s.config.cdPlayModeReset
            elapsedCycles := s.config.cdPeriod.at s.config.cdPlayModeReset
            driveStatus := s.config.cdStatusReset
            playMode := s.config.cdPlayModeReset } })

/-- A CPU's step leaves the other CPU alone (R548, R100), but for one thing: an SCU source may be sent to the master.
So a step of the master changes nothing of the slave, and a step of the slave changes of the master only its pending
list and its level flags. That no step changes the parameters is the model's choice (log 4). -/
def Obligations.cpus_are_separate : Prop :=
  ∀ s t : State, step s = .next t → t.config = s.config ∧
    (s.hostInputs = [] → t.active = s.active ∧ (s.active = .master → t.slave = s.slave) ∧
      (s.active = .slave →
        t.master = { s.master with pending := t.master.pending, levelInterrupted := t.master.levelInterrupted }))
end

