-- ==== Sys2Proof/Laws/Memory.lean ====
section
/-!
SUPPORT. The laws of storage: what a byte reads as after a write, and that every write keeps the canonical form, in
which equal contents are equal data.
-/

namespace Sys2Proof.Machine

/-! ### Reading after writing -/

theorem readCells_erase (l : List Host.Cell) (a q : Nat) :
    readCells (eraseCells l a) q = if q = a then Memory.unlisted else readCells l q := by
  induction l with
  | nil => simp [eraseCells, readCells]
  | cons c l ih =>
    obtain ⟨b, v⟩ := c
    by_cases hb : b = a <;> by_cases hq : q = a <;> by_cases hbq : b = q <;>
      simp_all [eraseCells, readCells]

/-- No cell stands at an address. -/
def absent (l : List Host.Cell) (a : Nat) : Prop := ∀ c ∈ l, c.1 ≠ a

theorem absent_erase (l : List Host.Cell) (a : Nat) : absent (eraseCells l a) a := by
  induction l with
  | nil => simp [eraseCells, absent]
  | cons c l ih =>
    obtain ⟨b, v⟩ := c
    by_cases hb : b = a
    · simpa [eraseCells, hb] using ih
    · simpa [eraseCells, hb, absent] using ih

theorem readCells_insert (l : List Host.Cell) (a q : Nat) (v : Byte) (h : absent l a) :
    readCells (insertCell l a v) q = if q = a then v else readCells l q := by
  induction l with
  | nil => simp [insertCell, readCells, eq_comm (a := a)]
  | cons c l ih =>
    obtain ⟨b, w⟩ := c
    have hb : b ≠ a := h (b, w) (by simp)
    have hl : absent l a := fun c hc => h c (by simp [hc])
    unfold insertCell
    split
    · by_cases hq : q = a
      · simp [readCells, hq]
      · simp [readCells, hq, Ne.symm hq]
    · simp only [readCells, ih hl]
      by_cases hq : q = a
      · have hbq : b ≠ q := by omega
        simp [hq, hb]
      · simp [hq]

/-- A byte after a write: the value at the address written, what it was everywhere else. -/
theorem Memory.read_write (m : Memory) (a q : Nat) (v : Byte) :
    (m.write a v).read q = if q = a then v else m.read q := by
  unfold Memory.write Memory.read
  by_cases hv : v = Memory.unlisted
  · simp only [hv, if_true, readCells_erase]
  · simp only [hv, if_false, readCells_insert _ _ _ _ (absent_erase _ _), readCells_erase]
    by_cases hq : q = a <;> simp [hq]

@[simp] theorem Memory.read_write_same (m : Memory) (a : Nat) (v : Byte) : (m.write a v).read a = v := by
  simp [Memory.read_write]

/-- A byte after a 16-bit write (R86). -/
theorem Memory.read_write16 (m : Memory) (a q : Nat) (v : Half) :
    (m.write16 a v).read q =
      if q = a then v.extractLsb' 8 8 else if q = a + 1 then v.extractLsb' 0 8 else m.read q := by
  simp only [Memory.write16, Memory.read_write]
  split_ifs <;> first | rfl | omega

/-- A byte after a 32-bit write (R86). -/
theorem Memory.read_write32 (m : Memory) (a q : Nat) (v : Word) :
    (m.write32 a v).read q =
      if q = a then v.extractLsb' 24 8 else if q = a + 1 then v.extractLsb' 16 8
      else if q = a + 2 then v.extractLsb' 8 8 else if q = a + 3 then v.extractLsb' 0 8 else m.read q := by
  simp only [Memory.write32, Memory.read_write]
  split_ifs <;> first | rfl | omega

/-! ### The canonical form -/

theorem cellsAbove_mono {l : List Host.Cell} {b c : Nat} (hbc : c ≤ b) (h : cellsAbove b l = true) :
    cellsAbove c l = true := by
  cases l with
  | nil => rfl
  | cons x l =>
    obtain ⟨a, v⟩ := x
    simp only [cellsAbove, Bool.and_eq_true, decide_eq_true_eq] at h ⊢
    exact ⟨⟨by omega, h.1.2⟩, h.2⟩

theorem cellsAbove_erase {l : List Host.Cell} {b : Nat} (a : Nat) (h : cellsAbove b l = true) :
    cellsAbove b (eraseCells l a) = true := by
  induction l generalizing b with
  | nil => rfl
  | cons x l ih =>
    obtain ⟨c, v⟩ := x
    simp only [cellsAbove, Bool.and_eq_true, decide_eq_true_eq] at h
    unfold eraseCells
    split
    · exact ih (cellsAbove_mono (by omega) h.2)
    · simp only [cellsAbove, Bool.and_eq_true, decide_eq_true_eq]
      exact ⟨h.1, ih h.2⟩

theorem cellsAbove_insert {l : List Host.Cell} {b a : Nat} {v : Byte} (hv : v ≠ Memory.unlisted) (hba : b < a)
    (h : cellsAbove b l = true) (habs : absent l a) : cellsAbove b (insertCell l a v) = true := by
  induction l generalizing b with
  | nil => simp [insertCell, cellsAbove, hv, hba]
  | cons x l ih =>
    obtain ⟨c, w⟩ := x
    have hc : c ≠ a := habs (c, w) (by simp)
    have hl : absent l a := fun y hy => habs y (by simp [hy])
    simp only [cellsAbove, Bool.and_eq_true, decide_eq_true_eq] at h
    unfold insertCell
    split
    · simp only [cellsAbove, Bool.and_eq_true, decide_eq_true_eq]
      exact ⟨⟨hba, hv⟩, ⟨‹_›, h.1.2⟩, h.2⟩
    · simp only [cellsAbove, Bool.and_eq_true, decide_eq_true_eq]
      exact ⟨h.1, ih (by omega) h.2 hl⟩

/-- The canonical form as a bound below every address: shifting the question to `cellsAbove`. -/
theorem canonicalCells_cons (a : Nat) (v : Byte) (l : List Host.Cell) :
    canonicalCells ((a, v) :: l) = (decide (v ≠ Memory.unlisted) && cellsAbove a l) := rfl

theorem canonical_of_cellsAbove {l : List Host.Cell} {b : Nat} (h : cellsAbove b l = true) :
    canonicalCells l = true := by
  cases l with
  | nil => rfl
  | cons x l =>
    obtain ⟨a, v⟩ := x
    simp only [cellsAbove, canonicalCells, Bool.and_eq_true, decide_eq_true_eq] at h ⊢
    exact ⟨h.1.2, h.2⟩

theorem canonical_erase {l : List Host.Cell} (a : Nat) (h : canonicalCells l = true) :
    canonicalCells (eraseCells l a) = true := by
  cases l with
  | nil => rfl
  | cons x l =>
    obtain ⟨c, v⟩ := x
    simp only [canonicalCells, Bool.and_eq_true, decide_eq_true_eq] at h
    unfold eraseCells
    split
    · exact canonical_of_cellsAbove (cellsAbove_erase a h.2)
    · simp only [canonicalCells, Bool.and_eq_true, decide_eq_true_eq]
      exact ⟨h.1, cellsAbove_erase a h.2⟩

theorem canonical_insert {l : List Host.Cell} {a : Nat} {v : Byte} (hv : v ≠ Memory.unlisted)
    (h : canonicalCells l = true) (habs : absent l a) : canonicalCells (insertCell l a v) = true := by
  cases l with
  | nil => simp [insertCell, canonicalCells, cellsAbove, hv]
  | cons x l =>
    obtain ⟨c, w⟩ := x
    have hc : c ≠ a := habs (c, w) (by simp)
    have hl : absent l a := fun y hy => habs y (by simp [hy])
    simp only [canonicalCells, Bool.and_eq_true, decide_eq_true_eq] at h
    unfold insertCell
    split
    · simp only [canonicalCells, cellsAbove, Bool.and_eq_true, decide_eq_true_eq]
      exact ⟨hv, ⟨‹_›, h.1⟩, h.2⟩
    · simp only [canonicalCells, Bool.and_eq_true, decide_eq_true_eq]
      exact ⟨h.1, cellsAbove_insert hv (by omega) h.2 hl⟩

/-- A byte write keeps the canonical form. -/
theorem Memory.write_wf {m : Memory} (a : Nat) (v : Byte) (h : m.wf = true) : (m.write a v).wf = true := by
  unfold Memory.write Memory.wf
  by_cases hv : v = Memory.unlisted
  · simpa [hv] using canonical_erase a h
  · simpa [hv] using canonical_insert hv (canonical_erase a h) (absent_erase _ _)

/-- A 16-bit write keeps the canonical form. -/
theorem Memory.write16_wf {m : Memory} (a : Nat) (v : Half) (h : m.wf = true) : (m.write16 a v).wf = true :=
  Memory.write_wf _ _ (Memory.write_wf _ _ h)

/-- A 32-bit write keeps the canonical form. -/
theorem Memory.write32_wf {m : Memory} (a : Nat) (v : Word) (h : m.wf = true) : (m.write32 a v).wf = true :=
  Memory.write_wf _ _ (Memory.write_wf _ _ (Memory.write_wf _ _ (Memory.write_wf _ _ h)))

/-- The memory after reset is in canonical form. -/
theorem Memory.empty_wf : Memory.empty.wf = true := rfl

end Sys2Proof.Machine
end

