-- ==== Sys2Proof/Laws/Dma.lean ====
section
/-!
SUPPORT. What the byte moves of a DMA do: where they read and write, and what storage holds after them, whatever the
mode, the stride and the overlap.
-/

namespace Sys2Proof.Machine

theorem readPlace_eq (cfg : DmaConfig) (r : Word) (k : Nat) : readPlace r cfg k = dmaReadAt cfg r k := by
  unfold readPlace dmaReadAt readStride
  by_cases h : 0x05800000 ≤ (r &&& 0x0FFFFFFF).toNat ∧ (r &&& 0x0FFFFFFF).toNat ≤ 0x058FFFFF
  · simp only [h, and_self, if_true]
  · simp only [h, if_false]
    congr 2; omega

theorem writePlace_eq (s : State) (cfg : DmaConfig) (w : Word) (k : Nat) :
    writePlace s.config.writeAddMode w k cfg (getDmaBus s.config.rangeMode w) = dmaWriteAt s cfg w k := by
  unfold writePlace dmaWriteAt
  cases s.config.writeAddMode <;> cases getDmaBus s.config.rangeMode w <;> simp

/-- A byte read by the SCU, where the bus answers: that of storage, or 0, and no effect; whatever storage holds. -/
theorem busRead8_scu {s : State} {a : Word} {x : Byte × State} (m : Memory) (h : busRead8 .scu a s = .next x) :
    busRead8 .scu a { s with mem := m } =
      .next (byteIn s m.read a, { s with mem := m }) := by
  have hp : State.place { s with mem := m } a = s.place a := rfl
  unfold busRead8 byteIn at *
  rw [hp]
  split at h <;> rename_i he <;> simp_all
  split at h <;> simp_all

/-- A byte written by the SCU, where the bus answers, changes that byte of writable storage and nothing else. -/
theorem busWrite8_scu {s t : State} {a : Word} (m : Memory) (v : Byte) (h : busWrite8 .scu a 0 s = .next t) :
    ∃ m', busWrite8 .scu a v { s with mem := m } = .next { s with mem := m' } ∧
      ∀ q, m'.read q = if s.place a = .storage q true then v else m.read q := by
  have hp : State.place { s with mem := m } a = s.place a := rfl
  unfold busWrite8 at *
  rw [hp]
  split at h <;> rename_i he
  · rename_i p w
    cases w
    · exact ⟨m, by simp [State.updateStorage], by simp [he]⟩
    · exact ⟨m.write p v, by simp [State.updateStorage], fun q => by simp [he, Memory.read_write, eq_comm]⟩
  · cases h
  · split at h
    · cases h
    · exact ⟨m, by simp_all, by simp [he]⟩
  · cases h
  · exact ⟨m, by simp_all, by simp [he]⟩
  · exact ⟨m, by simp_all, by simp [he]⟩

/-- The bus answers a transfer whose bytes all stand in storage. -/
theorem DmaAnswers.of_storage {s : State} {cfg : DmaConfig} {r w : Word} {count : Nat}
    (hr : ∀ k, k < count → ∃ p b, s.place (dmaReadAt cfg r k) = .storage p b)
    (hw : ∀ k, k < count → ∃ p b, s.place (dmaWriteAt s cfg w k) = .storage p b) : DmaAnswers s cfg r w count where
  reads k hk := by
    obtain ⟨p, b, h⟩ := hr k hk
    simp [busRead8, h]
  writes k hk := by
    obtain ⟨p, b, h⟩ := hw k hk
    simp [busWrite8, h]

/-- Moving the bytes from `k` on, where the bus answers: storage goes from what `dmaContent` says after `k` bytes to what
it says after all of them, and nothing else changes. -/
theorem moveBytes_content {s : State} {cfg : DmaConfig} {r w : Word} {n : Nat} (ha : DmaAnswers s cfg r w n)
    (left k : Nat) (m : Memory) (hk : k + left = n) (hm : m.read = dmaContent s cfg r w k) :
    ∃ m', moveBytes r w cfg (getDmaBus s.config.rangeMode w) left k { s with mem := m } =
        .next { s with mem := m' } ∧ m'.read = dmaContent s cfg r w n := by
  induction left generalizing k m with
  | zero => exact ⟨m, rfl, by rw [hm]; congr 1⟩
  | succ left ih =>
    obtain ⟨b, hb⟩ := ha.reads k (by omega)
    obtain ⟨t, ht⟩ := ha.writes k (by omega)
    have read := busRead8_scu m hb
    obtain ⟨m', write, content⟩ := busWrite8_scu m (byteIn s m.read (dmaReadAt cfg r k)) ht
    obtain ⟨m'', rest, done⟩ := ih (k + 1) m' (by omega) (funext fun q => (content q).trans (hm ▸ rfl))
    refine ⟨m'', ?_, done⟩
    unfold moveBytes
    rw [readPlace_eq, read]
    simp only [andThen]
    rw [writePlace_eq { s with mem := m } cfg w k]
    have same : dmaWriteAt { s with mem := m } cfg w k = dmaWriteAt s cfg w k := rfl
    rw [same, write]
    exact rest

end Sys2Proof.Machine
end

