-- ==== Sys2Proof/Laws/State.lean ====
section
/-!
SUPPORT. What each update of the state leaves in each field: one lemma for each field and update, so that no proof
unfolds a record update.
-/

namespace Sys2Proof.Machine

/-! ### Updates of the active CPU -/

@[simp] theorem State.mapCpu_cpu (s : State) (f : Cpu → Cpu) : (s.mapCpu f).cpu = f s.cpu := by
  rcases s with ⟨m, v, a, _⟩
  cases a <;> rfl

@[simp] theorem State.mapCpu_other (s : State) (f : Cpu → Cpu) : (s.mapCpu f).other = s.other := by
  rcases s with ⟨m, v, a, _⟩
  cases a <;> rfl

@[simp] theorem State.mapCpu_active (s : State) (f : Cpu → Cpu) : (s.mapCpu f).active = s.active := rfl
@[simp] theorem State.mapCpu_scu (s : State) (f : Cpu → Cpu) : (s.mapCpu f).scu = s.scu := rfl
@[simp] theorem State.mapCpu_cd (s : State) (f : Cpu → Cpu) : (s.mapCpu f).cd = s.cd := rfl
@[simp] theorem State.mapCpu_mem (s : State) (f : Cpu → Cpu) : (s.mapCpu f).mem = s.mem := rfl
@[simp] theorem State.mapCpu_emulationStopped (s : State) (f : Cpu → Cpu) : (s.mapCpu f).emulationStopped = s.emulationStopped := rfl
@[simp] theorem State.mapCpu_diagnostic (s : State) (f : Cpu → Cpu) : (s.mapCpu f).diagnostic = s.diagnostic := rfl
@[simp] theorem State.mapCpu_hostInputs (s : State) (f : Cpu → Cpu) : (s.mapCpu f).hostInputs = s.hostInputs := rfl
@[simp] theorem State.mapCpu_draws (s : State) (f : Cpu → Cpu) : (s.mapCpu f).draws = s.draws := rfl
@[simp] theorem State.mapCpu_config (s : State) (f : Cpu → Cpu) : (s.mapCpu f).config = s.config := rfl

@[simp] theorem State.setReg_cpu (s : State) (n : Reg) (v : Word) :
    (s.setReg n v).cpu = { s.cpu with r := s.cpu.r.set n v } := State.mapCpu_cpu _ _
@[simp] theorem State.setReg_other (s : State) (n : Reg) (v : Word) : (s.setReg n v).other = s.other := State.mapCpu_other _ _
@[simp] theorem State.setReg_active (s : State) (n : Reg) (v : Word) : (s.setReg n v).active = s.active := rfl
@[simp] theorem State.setReg_scu (s : State) (n : Reg) (v : Word) : (s.setReg n v).scu = s.scu := rfl
@[simp] theorem State.setReg_cd (s : State) (n : Reg) (v : Word) : (s.setReg n v).cd = s.cd := rfl
@[simp] theorem State.setReg_mem (s : State) (n : Reg) (v : Word) : (s.setReg n v).mem = s.mem := rfl
@[simp] theorem State.setReg_emulationStopped (s : State) (n : Reg) (v : Word) : (s.setReg n v).emulationStopped = s.emulationStopped := rfl
@[simp] theorem State.setReg_diagnostic (s : State) (n : Reg) (v : Word) : (s.setReg n v).diagnostic = s.diagnostic := rfl
@[simp] theorem State.setReg_hostInputs (s : State) (n : Reg) (v : Word) : (s.setReg n v).hostInputs = s.hostInputs := rfl
@[simp] theorem State.setReg_draws (s : State) (n : Reg) (v : Word) : (s.setReg n v).draws = s.draws := rfl
@[simp] theorem State.setReg_config (s : State) (n : Reg) (v : Word) : (s.setReg n v).config = s.config := rfl

@[simp] theorem State.setPc_cpu (s : State) (v : Word) :
    (s.setPc v).cpu = { s.cpu with pc := v } := State.mapCpu_cpu _ _
@[simp] theorem State.setPc_other (s : State) (v : Word) : (s.setPc v).other = s.other := State.mapCpu_other _ _
@[simp] theorem State.setPc_active (s : State) (v : Word) : (s.setPc v).active = s.active := rfl
@[simp] theorem State.setPc_scu (s : State) (v : Word) : (s.setPc v).scu = s.scu := rfl
@[simp] theorem State.setPc_cd (s : State) (v : Word) : (s.setPc v).cd = s.cd := rfl
@[simp] theorem State.setPc_mem (s : State) (v : Word) : (s.setPc v).mem = s.mem := rfl
@[simp] theorem State.setPc_emulationStopped (s : State) (v : Word) : (s.setPc v).emulationStopped = s.emulationStopped := rfl
@[simp] theorem State.setPc_diagnostic (s : State) (v : Word) : (s.setPc v).diagnostic = s.diagnostic := rfl
@[simp] theorem State.setPc_hostInputs (s : State) (v : Word) : (s.setPc v).hostInputs = s.hostInputs := rfl
@[simp] theorem State.setPc_draws (s : State) (v : Word) : (s.setPc v).draws = s.draws := rfl
@[simp] theorem State.setPc_config (s : State) (v : Word) : (s.setPc v).config = s.config := rfl

@[simp] theorem State.setSr_cpu (s : State) (v : SR) :
    (s.setSr v).cpu = { s.cpu with sr := v } := State.mapCpu_cpu _ _
@[simp] theorem State.setSr_other (s : State) (v : SR) : (s.setSr v).other = s.other := State.mapCpu_other _ _
@[simp] theorem State.setSr_active (s : State) (v : SR) : (s.setSr v).active = s.active := rfl
@[simp] theorem State.setSr_scu (s : State) (v : SR) : (s.setSr v).scu = s.scu := rfl
@[simp] theorem State.setSr_cd (s : State) (v : SR) : (s.setSr v).cd = s.cd := rfl
@[simp] theorem State.setSr_mem (s : State) (v : SR) : (s.setSr v).mem = s.mem := rfl
@[simp] theorem State.setSr_emulationStopped (s : State) (v : SR) : (s.setSr v).emulationStopped = s.emulationStopped := rfl
@[simp] theorem State.setSr_diagnostic (s : State) (v : SR) : (s.setSr v).diagnostic = s.diagnostic := rfl
@[simp] theorem State.setSr_hostInputs (s : State) (v : SR) : (s.setSr v).hostInputs = s.hostInputs := rfl
@[simp] theorem State.setSr_draws (s : State) (v : SR) : (s.setSr v).draws = s.draws := rfl
@[simp] theorem State.setSr_config (s : State) (v : SR) : (s.setSr v).config = s.config := rfl

@[simp] theorem State.setT_cpu (s : State) (v : Bool) :
    (s.setT v).cpu = { s.cpu with sr := { s.cpu.sr with t := v } } := State.mapCpu_cpu _ _
@[simp] theorem State.setT_other (s : State) (v : Bool) : (s.setT v).other = s.other := State.mapCpu_other _ _
@[simp] theorem State.setT_active (s : State) (v : Bool) : (s.setT v).active = s.active := rfl
@[simp] theorem State.setT_scu (s : State) (v : Bool) : (s.setT v).scu = s.scu := rfl
@[simp] theorem State.setT_cd (s : State) (v : Bool) : (s.setT v).cd = s.cd := rfl
@[simp] theorem State.setT_mem (s : State) (v : Bool) : (s.setT v).mem = s.mem := rfl
@[simp] theorem State.setT_emulationStopped (s : State) (v : Bool) : (s.setT v).emulationStopped = s.emulationStopped := rfl
@[simp] theorem State.setT_diagnostic (s : State) (v : Bool) : (s.setT v).diagnostic = s.diagnostic := rfl
@[simp] theorem State.setT_hostInputs (s : State) (v : Bool) : (s.setT v).hostInputs = s.hostInputs := rfl
@[simp] theorem State.setT_draws (s : State) (v : Bool) : (s.setT v).draws = s.draws := rfl
@[simp] theorem State.setT_config (s : State) (v : Bool) : (s.setT v).config = s.config := rfl

@[simp] theorem State.setGbr_cpu (s : State) (v : Word) :
    (s.setGbr v).cpu = { s.cpu with gbr := v } := State.mapCpu_cpu _ _
@[simp] theorem State.setGbr_other (s : State) (v : Word) : (s.setGbr v).other = s.other := State.mapCpu_other _ _
@[simp] theorem State.setGbr_active (s : State) (v : Word) : (s.setGbr v).active = s.active := rfl
@[simp] theorem State.setGbr_scu (s : State) (v : Word) : (s.setGbr v).scu = s.scu := rfl
@[simp] theorem State.setGbr_cd (s : State) (v : Word) : (s.setGbr v).cd = s.cd := rfl
@[simp] theorem State.setGbr_mem (s : State) (v : Word) : (s.setGbr v).mem = s.mem := rfl
@[simp] theorem State.setGbr_emulationStopped (s : State) (v : Word) : (s.setGbr v).emulationStopped = s.emulationStopped := rfl
@[simp] theorem State.setGbr_diagnostic (s : State) (v : Word) : (s.setGbr v).diagnostic = s.diagnostic := rfl
@[simp] theorem State.setGbr_hostInputs (s : State) (v : Word) : (s.setGbr v).hostInputs = s.hostInputs := rfl
@[simp] theorem State.setGbr_draws (s : State) (v : Word) : (s.setGbr v).draws = s.draws := rfl
@[simp] theorem State.setGbr_config (s : State) (v : Word) : (s.setGbr v).config = s.config := rfl

@[simp] theorem State.setVbr_cpu (s : State) (v : Word) :
    (s.setVbr v).cpu = { s.cpu with vbr := v } := State.mapCpu_cpu _ _
@[simp] theorem State.setVbr_other (s : State) (v : Word) : (s.setVbr v).other = s.other := State.mapCpu_other _ _
@[simp] theorem State.setVbr_active (s : State) (v : Word) : (s.setVbr v).active = s.active := rfl
@[simp] theorem State.setVbr_scu (s : State) (v : Word) : (s.setVbr v).scu = s.scu := rfl
@[simp] theorem State.setVbr_cd (s : State) (v : Word) : (s.setVbr v).cd = s.cd := rfl
@[simp] theorem State.setVbr_mem (s : State) (v : Word) : (s.setVbr v).mem = s.mem := rfl
@[simp] theorem State.setVbr_emulationStopped (s : State) (v : Word) : (s.setVbr v).emulationStopped = s.emulationStopped := rfl
@[simp] theorem State.setVbr_diagnostic (s : State) (v : Word) : (s.setVbr v).diagnostic = s.diagnostic := rfl
@[simp] theorem State.setVbr_hostInputs (s : State) (v : Word) : (s.setVbr v).hostInputs = s.hostInputs := rfl
@[simp] theorem State.setVbr_draws (s : State) (v : Word) : (s.setVbr v).draws = s.draws := rfl
@[simp] theorem State.setVbr_config (s : State) (v : Word) : (s.setVbr v).config = s.config := rfl

@[simp] theorem State.setMach_cpu (s : State) (v : Word) :
    (s.setMach v).cpu = { s.cpu with mach := v } := State.mapCpu_cpu _ _
@[simp] theorem State.setMach_other (s : State) (v : Word) : (s.setMach v).other = s.other := State.mapCpu_other _ _
@[simp] theorem State.setMach_active (s : State) (v : Word) : (s.setMach v).active = s.active := rfl
@[simp] theorem State.setMach_scu (s : State) (v : Word) : (s.setMach v).scu = s.scu := rfl
@[simp] theorem State.setMach_cd (s : State) (v : Word) : (s.setMach v).cd = s.cd := rfl
@[simp] theorem State.setMach_mem (s : State) (v : Word) : (s.setMach v).mem = s.mem := rfl
@[simp] theorem State.setMach_emulationStopped (s : State) (v : Word) : (s.setMach v).emulationStopped = s.emulationStopped := rfl
@[simp] theorem State.setMach_diagnostic (s : State) (v : Word) : (s.setMach v).diagnostic = s.diagnostic := rfl
@[simp] theorem State.setMach_hostInputs (s : State) (v : Word) : (s.setMach v).hostInputs = s.hostInputs := rfl
@[simp] theorem State.setMach_draws (s : State) (v : Word) : (s.setMach v).draws = s.draws := rfl
@[simp] theorem State.setMach_config (s : State) (v : Word) : (s.setMach v).config = s.config := rfl

@[simp] theorem State.setMacl_cpu (s : State) (v : Word) :
    (s.setMacl v).cpu = { s.cpu with macl := v } := State.mapCpu_cpu _ _
@[simp] theorem State.setMacl_other (s : State) (v : Word) : (s.setMacl v).other = s.other := State.mapCpu_other _ _
@[simp] theorem State.setMacl_active (s : State) (v : Word) : (s.setMacl v).active = s.active := rfl
@[simp] theorem State.setMacl_scu (s : State) (v : Word) : (s.setMacl v).scu = s.scu := rfl
@[simp] theorem State.setMacl_cd (s : State) (v : Word) : (s.setMacl v).cd = s.cd := rfl
@[simp] theorem State.setMacl_mem (s : State) (v : Word) : (s.setMacl v).mem = s.mem := rfl
@[simp] theorem State.setMacl_emulationStopped (s : State) (v : Word) : (s.setMacl v).emulationStopped = s.emulationStopped := rfl
@[simp] theorem State.setMacl_diagnostic (s : State) (v : Word) : (s.setMacl v).diagnostic = s.diagnostic := rfl
@[simp] theorem State.setMacl_hostInputs (s : State) (v : Word) : (s.setMacl v).hostInputs = s.hostInputs := rfl
@[simp] theorem State.setMacl_draws (s : State) (v : Word) : (s.setMacl v).draws = s.draws := rfl
@[simp] theorem State.setMacl_config (s : State) (v : Word) : (s.setMacl v).config = s.config := rfl

@[simp] theorem State.setPr_cpu (s : State) (v : Word) :
    (s.setPr v).cpu = { s.cpu with pr := v } := State.mapCpu_cpu _ _
@[simp] theorem State.setPr_other (s : State) (v : Word) : (s.setPr v).other = s.other := State.mapCpu_other _ _
@[simp] theorem State.setPr_active (s : State) (v : Word) : (s.setPr v).active = s.active := rfl
@[simp] theorem State.setPr_scu (s : State) (v : Word) : (s.setPr v).scu = s.scu := rfl
@[simp] theorem State.setPr_cd (s : State) (v : Word) : (s.setPr v).cd = s.cd := rfl
@[simp] theorem State.setPr_mem (s : State) (v : Word) : (s.setPr v).mem = s.mem := rfl
@[simp] theorem State.setPr_emulationStopped (s : State) (v : Word) : (s.setPr v).emulationStopped = s.emulationStopped := rfl
@[simp] theorem State.setPr_diagnostic (s : State) (v : Word) : (s.setPr v).diagnostic = s.diagnostic := rfl
@[simp] theorem State.setPr_hostInputs (s : State) (v : Word) : (s.setPr v).hostInputs = s.hostInputs := rfl
@[simp] theorem State.setPr_draws (s : State) (v : Word) : (s.setPr v).draws = s.draws := rfl
@[simp] theorem State.setPr_config (s : State) (v : Word) : (s.setPr v).config = s.config := rfl

@[simp] theorem State.setCycles_cpu (s : State) (n : Nat) :
    (s.setCycles n).cpu = { s.cpu with cyclesElapsed := n } := State.mapCpu_cpu _ _
@[simp] theorem State.setCycles_other (s : State) (n : Nat) : (s.setCycles n).other = s.other := State.mapCpu_other _ _
@[simp] theorem State.setCycles_active (s : State) (n : Nat) : (s.setCycles n).active = s.active := rfl
@[simp] theorem State.setCycles_scu (s : State) (n : Nat) : (s.setCycles n).scu = s.scu := rfl
@[simp] theorem State.setCycles_cd (s : State) (n : Nat) : (s.setCycles n).cd = s.cd := rfl
@[simp] theorem State.setCycles_mem (s : State) (n : Nat) : (s.setCycles n).mem = s.mem := rfl
@[simp] theorem State.setCycles_emulationStopped (s : State) (n : Nat) : (s.setCycles n).emulationStopped = s.emulationStopped := rfl
@[simp] theorem State.setCycles_diagnostic (s : State) (n : Nat) : (s.setCycles n).diagnostic = s.diagnostic := rfl
@[simp] theorem State.setCycles_hostInputs (s : State) (n : Nat) : (s.setCycles n).hostInputs = s.hostInputs := rfl
@[simp] theorem State.setCycles_draws (s : State) (n : Nat) : (s.setCycles n).draws = s.draws := rfl
@[simp] theorem State.setCycles_config (s : State) (n : Nat) : (s.setCycles n).config = s.config := rfl

/-- A cost depends on the parameters alone, so that it is the same before and after every update. -/
@[simp] theorem State.cost_eq (s : State) (row : CycleRow) : s.cost row = s.config.cycles.at row := rfl

@[simp] theorem State.advance_cpu (s : State) (row : CycleRow) :
    (s.advance row).cpu = { s.cpu with pc := s.cpu.pc + 2, cyclesElapsed := s.cost row } := State.mapCpu_cpu _ _
@[simp] theorem State.advance_other (s : State) (row : CycleRow) : (s.advance row).other = s.other := State.mapCpu_other _ _
@[simp] theorem State.advance_active (s : State) (row : CycleRow) : (s.advance row).active = s.active := rfl
@[simp] theorem State.advance_scu (s : State) (row : CycleRow) : (s.advance row).scu = s.scu := rfl
@[simp] theorem State.advance_cd (s : State) (row : CycleRow) : (s.advance row).cd = s.cd := rfl
@[simp] theorem State.advance_mem (s : State) (row : CycleRow) : (s.advance row).mem = s.mem := rfl
@[simp] theorem State.advance_emulationStopped (s : State) (row : CycleRow) : (s.advance row).emulationStopped = s.emulationStopped := rfl
@[simp] theorem State.advance_diagnostic (s : State) (row : CycleRow) : (s.advance row).diagnostic = s.diagnostic := rfl
@[simp] theorem State.advance_hostInputs (s : State) (row : CycleRow) : (s.advance row).hostInputs = s.hostInputs := rfl
@[simp] theorem State.advance_draws (s : State) (row : CycleRow) : (s.advance row).draws = s.draws := rfl
@[simp] theorem State.advance_config (s : State) (row : CycleRow) : (s.advance row).config = s.config := rfl

@[simp] theorem State.simple_cpu (s : State) :
    (s.simple).cpu = { s.cpu with pc := s.cpu.pc + 2, cyclesElapsed := s.cost .simple } := State.mapCpu_cpu _ _
@[simp] theorem State.simple_other (s : State) : (s.simple).other = s.other := State.mapCpu_other _ _
@[simp] theorem State.simple_active (s : State) : (s.simple).active = s.active := rfl
@[simp] theorem State.simple_scu (s : State) : (s.simple).scu = s.scu := rfl
@[simp] theorem State.simple_cd (s : State) : (s.simple).cd = s.cd := rfl
@[simp] theorem State.simple_mem (s : State) : (s.simple).mem = s.mem := rfl
@[simp] theorem State.simple_emulationStopped (s : State) : (s.simple).emulationStopped = s.emulationStopped := rfl
@[simp] theorem State.simple_diagnostic (s : State) : (s.simple).diagnostic = s.diagnostic := rfl
@[simp] theorem State.simple_hostInputs (s : State) : (s.simple).hostInputs = s.hostInputs := rfl
@[simp] theorem State.simple_draws (s : State) : (s.simple).draws = s.draws := rfl
@[simp] theorem State.simple_config (s : State) : (s.simple).config = s.config := rfl

@[simp] theorem State.setRegT_cpu (s : State) (n : Reg) (p : Word × Bool) :
    (s.setRegT n p).cpu = { s.cpu with r := s.cpu.r.set n p.1, sr := { s.cpu.sr with t := p.2 } } := by simp [State.setRegT]
@[simp] theorem State.setRegT_other (s : State) (n : Reg) (p : Word × Bool) : (s.setRegT n p).other = s.other := by simp [State.setRegT]
@[simp] theorem State.setRegT_active (s : State) (n : Reg) (p : Word × Bool) : (s.setRegT n p).active = s.active := rfl
@[simp] theorem State.setRegT_scu (s : State) (n : Reg) (p : Word × Bool) : (s.setRegT n p).scu = s.scu := rfl
@[simp] theorem State.setRegT_cd (s : State) (n : Reg) (p : Word × Bool) : (s.setRegT n p).cd = s.cd := rfl
@[simp] theorem State.setRegT_mem (s : State) (n : Reg) (p : Word × Bool) : (s.setRegT n p).mem = s.mem := rfl
@[simp] theorem State.setRegT_emulationStopped (s : State) (n : Reg) (p : Word × Bool) : (s.setRegT n p).emulationStopped = s.emulationStopped := rfl
@[simp] theorem State.setRegT_diagnostic (s : State) (n : Reg) (p : Word × Bool) : (s.setRegT n p).diagnostic = s.diagnostic := rfl
@[simp] theorem State.setRegT_hostInputs (s : State) (n : Reg) (p : Word × Bool) : (s.setRegT n p).hostInputs = s.hostInputs := rfl
@[simp] theorem State.setRegT_draws (s : State) (n : Reg) (p : Word × Bool) : (s.setRegT n p).draws = s.draws := rfl
@[simp] theorem State.setRegT_config (s : State) (n : Reg) (p : Word × Bool) : (s.setRegT n p).config = s.config := rfl

@[simp] theorem State.setMac_cpu (s : State) (v : BitVec 64) :
    (s.setMac v).cpu = { s.cpu with mach := v.extractLsb' 32 32, macl := v.extractLsb' 0 32 } := by simp [State.setMac]
@[simp] theorem State.setMac_other (s : State) (v : BitVec 64) : (s.setMac v).other = s.other := by simp [State.setMac]
@[simp] theorem State.setMac_active (s : State) (v : BitVec 64) : (s.setMac v).active = s.active := rfl
@[simp] theorem State.setMac_scu (s : State) (v : BitVec 64) : (s.setMac v).scu = s.scu := rfl
@[simp] theorem State.setMac_cd (s : State) (v : BitVec 64) : (s.setMac v).cd = s.cd := rfl
@[simp] theorem State.setMac_mem (s : State) (v : BitVec 64) : (s.setMac v).mem = s.mem := rfl
@[simp] theorem State.setMac_emulationStopped (s : State) (v : BitVec 64) : (s.setMac v).emulationStopped = s.emulationStopped := rfl
@[simp] theorem State.setMac_diagnostic (s : State) (v : BitVec 64) : (s.setMac v).diagnostic = s.diagnostic := rfl
@[simp] theorem State.setMac_hostInputs (s : State) (v : BitVec 64) : (s.setMac v).hostInputs = s.hostInputs := rfl
@[simp] theorem State.setMac_draws (s : State) (v : BitVec 64) : (s.setMac v).draws = s.draws := rfl
@[simp] theorem State.setMac_config (s : State) (v : BitVec 64) : (s.setMac v).config = s.config := rfl

@[simp] theorem State.link_cpu (s : State) :
    (s.link).cpu = { s.cpu with pr := s.cpu.pc + 4 } := State.mapCpu_cpu _ _
@[simp] theorem State.link_other (s : State) : (s.link).other = s.other := State.mapCpu_other _ _
@[simp] theorem State.link_active (s : State) : (s.link).active = s.active := rfl
@[simp] theorem State.link_scu (s : State) : (s.link).scu = s.scu := rfl
@[simp] theorem State.link_cd (s : State) : (s.link).cd = s.cd := rfl
@[simp] theorem State.link_mem (s : State) : (s.link).mem = s.mem := rfl
@[simp] theorem State.link_emulationStopped (s : State) : (s.link).emulationStopped = s.emulationStopped := rfl
@[simp] theorem State.link_diagnostic (s : State) : (s.link).diagnostic = s.diagnostic := rfl
@[simp] theorem State.link_hostInputs (s : State) : (s.link).hostInputs = s.hostInputs := rfl
@[simp] theorem State.link_draws (s : State) : (s.link).draws = s.draws := rfl
@[simp] theorem State.link_config (s : State) : (s.link).config = s.config := rfl

@[simp] theorem State.commit_cpu (s : State) (target : Word) (cost : Nat) :
    (s.commit target cost).cpu = { s.cpu with pc := target, cyclesElapsed := cost + s.cpu.cyclesElapsed } := State.mapCpu_cpu _ _
@[simp] theorem State.commit_other (s : State) (target : Word) (cost : Nat) : (s.commit target cost).other = s.other := State.mapCpu_other _ _
@[simp] theorem State.commit_active (s : State) (target : Word) (cost : Nat) : (s.commit target cost).active = s.active := rfl
@[simp] theorem State.commit_scu (s : State) (target : Word) (cost : Nat) : (s.commit target cost).scu = s.scu := rfl
@[simp] theorem State.commit_cd (s : State) (target : Word) (cost : Nat) : (s.commit target cost).cd = s.cd := rfl
@[simp] theorem State.commit_mem (s : State) (target : Word) (cost : Nat) : (s.commit target cost).mem = s.mem := rfl
@[simp] theorem State.commit_emulationStopped (s : State) (target : Word) (cost : Nat) : (s.commit target cost).emulationStopped = s.emulationStopped := rfl
@[simp] theorem State.commit_diagnostic (s : State) (target : Word) (cost : Nat) : (s.commit target cost).diagnostic = s.diagnostic := rfl
@[simp] theorem State.commit_hostInputs (s : State) (target : Word) (cost : Nat) : (s.commit target cost).hostInputs = s.hostInputs := rfl
@[simp] theorem State.commit_draws (s : State) (target : Word) (cost : Nat) : (s.commit target cost).draws = s.draws := rfl
@[simp] theorem State.commit_config (s : State) (target : Word) (cost : Nat) : (s.commit target cost).config = s.config := rfl

/-! ### Storage replaced, addresses, updates one after the other -/

@[simp] theorem State.withMem_cpu (s : State) (m : Memory) : ({ s with mem := m } : State).cpu = s.cpu := by
  rcases s with ⟨_, _, a, _⟩
  cases a <;> rfl

@[simp] theorem State.withMem_other (s : State) (m : Memory) : ({ s with mem := m } : State).other = s.other := by
  rcases s with ⟨_, _, a, _⟩
  cases a <;> rfl

/-- An address leads where the region table sends it. -/
theorem State.place_of_config {s t : State} (h : t.config = s.config) (a : Word) : t.place a = s.place a := by
  unfold State.place
  rw [h]

@[simp] theorem State.place_mapCpu (s : State) (f : Cpu → Cpu) (a : Word) : (s.mapCpu f).place a = s.place a := rfl

@[simp] theorem State.place_setReg (s : State) (n : Reg) (v a : Word) : (s.setReg n v).place a = s.place a := rfl

@[simp] theorem State.mapCpu_mapCpu (s : State) (f g : Cpu → Cpu) : (s.mapCpu f).mapCpu g = s.mapCpu (g ∘ f) := by
  rcases s with ⟨_, _, a, _⟩
  cases a <;> rfl

/-! ### Registers -/

/-- Reading a register of a CPU after writing one. -/
theorem Cpu.get_set (r : Vector Word 16) (n k : Reg) (v : Word) :
    (r.set n v).get k = if k = n then v else r.get k := by
  simp only [Vector.get_eq_getElem, Vector.getElem_set]
  by_cases h : (n : Nat) = k
  · simp [h, Fin.ext_iff]
  · simp [h, Fin.ext_iff, Ne.symm h]

/-- Reading a register after writing one. -/
theorem State.reg_setReg (s : State) (n k : Reg) (v : Word) :
    (s.setReg n v).reg k = if k = n then v else s.reg k := by
  simp only [State.reg, State.setReg_cpu, Cpu.get_set]

@[simp] theorem State.reg_setReg_same (s : State) (n : Reg) (v : Word) : (s.setReg n v).reg n = v := by
  simp [State.reg_setReg]

/-- A write of one register leaves the others alone. -/
theorem State.reg_setReg_ne (s : State) {n k : Reg} (v : Word) (h : k ≠ n) : (s.setReg n v).reg k = s.reg k := by
  simp [State.reg_setReg, h]

/-! ### The halt -/

@[simp] theorem State.halt_cpu (s : State) (r : HaltReason) (w : Half) (pc : Word) :
    (s.halt r w pc).cpu = { s.cpu with cyclesElapsed := Config.freeCycles s.draws } :=
  State.setCycles_cpu s _
@[simp] theorem State.halt_other (s : State) (r : HaltReason) (w : Half) (pc : Word) :
    (s.halt r w pc).other = s.other := State.setCycles_other s _
@[simp] theorem State.halt_active (s : State) (r : HaltReason) (w : Half) (pc : Word) :
    (s.halt r w pc).active = s.active := rfl
@[simp] theorem State.halt_scu (s : State) (r : HaltReason) (w : Half) (pc : Word) :
    (s.halt r w pc).scu = s.scu := rfl
@[simp] theorem State.halt_cd (s : State) (r : HaltReason) (w : Half) (pc : Word) :
    (s.halt r w pc).cd = s.cd := rfl
@[simp] theorem State.halt_mem (s : State) (r : HaltReason) (w : Half) (pc : Word) :
    (s.halt r w pc).mem = s.mem := rfl
@[simp] theorem State.halt_hostInputs (s : State) (r : HaltReason) (w : Half) (pc : Word) :
    (s.halt r w pc).hostInputs = s.hostInputs := rfl
@[simp] theorem State.halt_config (s : State) (r : HaltReason) (w : Half) (pc : Word) :
    (s.halt r w pc).config = s.config := rfl
@[simp] theorem State.halt_emulationStopped (s : State) (r : HaltReason) (w : Half) (pc : Word) :
    (s.halt r w pc).emulationStopped = true := rfl
@[simp] theorem State.halt_diagnostic (s : State) (r : HaltReason) (w : Half) (pc : Word) :
    (s.halt r w pc).diagnostic = some ⟨r, s.active, w, pc⟩ := rfl
@[simp] theorem State.halt_draws (s : State) (r : HaltReason) (w : Half) (pc : Word) :
    (s.halt r w pc).draws = s.draws + 1 := rfl

/-! ### Sequencing -/

@[simp] theorem andThen_next {α β : Type} (a : α) (f : α → Result β) : andThen (.next a) f = f a := rfl
@[simp] theorem andThen_fault {α β : Type} (r : Fault) (f : α → Result β) :
    andThen (.fault r : Result α) f = .fault r := rfl
@[simp] theorem andThen_refused {α β : Type} (r : Refusal) (f : α → Result β) :
    andThen (.refused r : Result α) f = .refused r := rfl

/-- What a sequence can do when it answers: both parts answered. -/
theorem andThen_eq_next {α β : Type} {x : Result α} {f : α → Result β} {b : β} :
    andThen x f = .next b ↔ ∃ a, x = .next a ∧ f a = .next b := by
  cases x <;> simp [andThen]

end Sys2Proof.Machine
end

