-- ==== Sys2Proof/Laws/Ops.lean ====
section
/-!
SUPPORT. What each shared operation does, said once: loads and stores at plain addresses as equations, and for every
access the list of everything it can do when it answers.
-/

namespace Sys2Proof.Machine

/-- In the spaces 000 and 001 as the core addresses them, below 2^27, an address is its own physical address (R97). -/
theorem resolve_low (p : Params) (a : Word) (h : a.toNat < 0x08000000) :
    resolve p a = physicalPlace p a.toNat := by
  have hs : a.extractLsb' 29 3 = 0#3 := by
    apply BitVec.eq_of_toNat_eq
    simp [BitVec.extractLsb'_toNat, Nat.shiftRight_eq_div_pow]
    omega
  have hm : (a &&& 0x07FFFFFF).toNat = a.toNat := by
    have : (0x07FFFFFF : Word).toNat = 2 ^ 27 - 1 := rfl
    rw [BitVec.toNat_and, this, Nat.and_two_pow_sub_one_eq_mod]
    omega
  rw [← hm]
  exact if_pos (.inl hs)

/-! ### Loads at plain addresses (R84, R85) -/

theorem memRead8_plain {s : State} {a : Word} {v : Byte} (h : plainByte s a = some v) : memRead8 a s = .next (v, s) := by
  unfold plainByte at h
  unfold memRead8 busRead8
  split at h <;> simp_all

theorem memRead16_plain {s : State} {a : Word} {v : Half} (h : plainHalf s a = some v) :
    memRead16 a s = .next (v, s) := by
  unfold plainHalf at h
  unfold memRead16 busRead16
  split at h
  · split at h <;> simp_all [Memory.read16]
  · cases h

theorem memRead32_plain {s : State} {a : Word} {v : Word} (h : plainLong s a = some v) :
    memRead32 a s = .next (v, s) := by
  unfold plainLong at h
  unfold memRead32 busRead32
  split at h
  · split at h <;> simp_all [Memory.read32]
  · cases h

/-! ### Stores at plain addresses (R86, R87) -/

/-- A byte store leaves the whole state but storage alone. -/
theorem memWrite8_plain {s : State} {a : Word} {n : Nat} (v : BitVec n) (h : plainPlace s a = true) :
    ∃ m, memWrite8 a (v.extractLsb' 0 8) s = .next { s with mem := m } ∧ ∀ q, m.read q = stored s a 1 v q := by
  unfold plainPlace at h
  unfold memWrite8 busWrite8 stored
  split at h
  · next p w hp =>
    cases w
    · exact ⟨s.mem, by simp [hp, State.updateStorage], by simp [hp]⟩
    · refine ⟨s.mem.write p (v.extractLsb' 0 8), by simp [hp, State.updateStorage], fun q => ?_⟩
      simp only [hp, putBytes, Memory.read_write]
      by_cases hq : q = p
      · subst hq; simp
      · have : ¬ (p ≤ q ∧ q < p + 1) := by omega
        simp only [hq, this, if_false]
  · next hp => exact ⟨s.mem, by simp [hp], by simp [hp]⟩
  · cases h

/-- A word store leaves the whole state but storage alone. -/
theorem memWrite16_plain {s : State} {a : Word} {n : Nat} (v : BitVec n) (ha : a.toNat % 2 = 0)
    (h : plainPlace s a = true) :
    ∃ m, memWrite16 a (v.extractLsb' 0 16) s = .next { s with mem := m } ∧ ∀ q, m.read q = stored s a 2 v q := by
  unfold plainPlace at h
  unfold memWrite16 stored
  split at h
  · next p w hp =>
    cases w
    · exact ⟨s.mem, by simp [ha, hp, State.updateStorage], by simp [hp]⟩
    · refine ⟨s.mem.write16 p (v.extractLsb' 0 16), by simp [ha, hp, State.updateStorage], fun q => ?_⟩
      simp only [hp, putBytes, Memory.read_write16]
      by_cases h0 : q = p
      · subst h0
        simp
      by_cases h1 : q = p + 1
      · subst h1
        simp
      · have : ¬ (p ≤ q ∧ q < p + 2) := by omega
        simp [h0, h1, this]
  · next hp => exact ⟨s.mem, by simp [ha, hp], by simp [hp]⟩
  · cases h

/-- A longword store leaves the whole state but storage alone. -/
theorem memWrite32_plain {s : State} {a : Word} (v : Word) (ha : a.toNat % 4 = 0) (h : plainPlace s a = true) :
    ∃ m, memWrite32 a v s = .next { s with mem := m } ∧ ∀ q, m.read q = stored s a 4 v q := by
  unfold plainPlace at h
  unfold memWrite32 stored
  split at h
  · next p w hp =>
    cases w
    · exact ⟨s.mem, by simp [ha, hp, State.updateStorage], by simp [hp]⟩
    · refine ⟨s.mem.write32 p v, by simp [ha, hp, State.updateStorage], fun q => ?_⟩
      simp only [hp, putBytes, Memory.read_write32]
      by_cases hq : p ≤ q ∧ q < p + 4
      · obtain ⟨k, rfl⟩ : ∃ k, q = p + k := ⟨q - p, by omega⟩
        have hk : k = 0 ∨ k = 1 ∨ k = 2 ∨ k = 3 := by omega
        rcases hk with rfl | rfl | rfl | rfl <;> simp
      · have h0 : q ≠ p := by omega
        have h1 : q ≠ p + 1 := by omega
        have h2 : q ≠ p + 2 := by omega
        have h3 : q ≠ p + 3 := by omega
        simp [hq, h0, h1, h2, h3]
  · next hp => exact ⟨s.mem, by simp [ha, hp], by simp [hp]⟩
  · cases h

/-- A longword store to writable storage. -/
theorem memWrite32_storage {s : State} {a : Word} {p : Nat} (v : Word) (ha : a.toNat % 4 = 0)
    (hp : s.place a = .storage p true) : memWrite32 a v s = .next { s with mem := s.mem.write32 p v } := by
  unfold memWrite32
  rw [if_neg (by omega), hp]
  rfl

/-! ### Misaligned accesses (R90) -/

theorem memRead16_misaligned {s : State} {a : Word} (h : a.toNat % 2 ≠ 0) :
    memRead16 a s = .fault (.misalignedAccess a 2) := by
  unfold memRead16 busRead16
  rw [if_pos h]

theorem memRead32_misaligned {s : State} {a : Word} (h : a.toNat % 4 ≠ 0) :
    memRead32 a s = .fault (.misalignedAccess a 4) := by
  unfold memRead32 busRead32
  rw [if_pos h]

theorem memWrite16_misaligned {s : State} {a : Word} {v : Half} (h : a.toNat % 2 ≠ 0) :
    memWrite16 a v s = .fault (.misalignedAccess a 2) := by
  unfold memWrite16
  rw [if_pos h]

theorem memWrite32_misaligned {s : State} {a v : Word} (h : a.toNat % 4 ≠ 0) :
    memWrite32 a v s = .fault (.misalignedAccess a 4) := by
  unfold memWrite32
  rw [if_pos h]

/-! ### Pushes, slots, devices -/

/-- A push on the exception stack is a store at `R15 - 4` after R15 has moved there. -/
theorem pushFrameWord_eq (v : Word) (s : State) :
    pushFrameWord v s = memWrite32 (s.reg Reg.sp - 4) v (s.setReg Reg.sp (s.reg Reg.sp - 4)) := by
  unfold pushFrameWord
  dsimp only
  rw [State.reg_setReg_same]

/-- `Slot(addr)` at a plain address (R178): the three cases of the word that stands there. -/
theorem runSlot_plain {s : State} {a : Word} {w : Half} (fuel : Nat) (ha : a.toNat % 2 = 0)
    (hw : plainHalf s a = some w) :
    runSlot (fuel + 1) a s =
      if !s.cpu.porSlotQuirk && illegalInSlotWord w then .next (.halted (s.halt .illegalSlotInstruction w a))
      else match decodeWord w with
        | none   => .next (.halted ((s.setPc a).halt .badOpcode w a))
        | some i =>
          if i.isPcRelative then pcRelativeSlot s.config.pcRelInSlot a
          else andThen (flowOf i (s.setPc a)) (finishFlow (runSlot fuel) (a + 2)) := by
  conv => lhs; unfold runSlot
  rw [if_neg (by omega), memRead16_plain hw]
  rfl

/-- A slot's fuel is never zero at the start. -/
theorem slotFuel_succ : slotFuel = 2147483647 + 1 := rfl

/-- A delayed branch whose capture takes it is its slot and its commit. -/
theorem delayedBranch_slot {capture : State → Result Flow} {s t : State} {target : Word} {cost : Nat}
    (hc : capture s = .next (.slot t target cost)) :
    delayedBranch capture s =
      andThen (finishFlow (runSlot slotFuel) (s.cpu.pc + 2) (.slot t target cost)) fun e => .next e.state := by
  unfold delayedBranch
  rw [hc]
  rfl

/-- A channel after a register write of some channel. -/
theorem Scu.channel_putChannel (u : Scu) (p : Params) (level k : Fin 3) (reg : ChannelReg) (v : Word) :
    (u.putChannel p level reg v).channel k =
      if k = level then (u.channel level).put reg (v &&& reg.mask p level) else u.channel k := by
  unfold Scu.putChannel Scu.channel
  simp only [Vector.get_eq_getElem, Vector.getElem_set]
  by_cases h : (level : Nat) = k
  · simp [h, Fin.ext_iff]
  · simp [h, Fin.ext_iff, Ne.symm h]

/-- Everything `ScuRaise` can do: the status register changes, and the master may be sent the interrupt. -/
theorem State.scuRaise_effect (s : State) (src : ScuSource) :
    s.scuRaise src = { s with
      scu := { s.scu with ist := s.scu.ist ||| (1#32 <<< src.statusBit) }
      master := if s.scu.ims.getLsbD src.maskBit then s.master else s.master.sendInterrupt (.scu src) } := by
  unfold State.scuRaise
  dsimp only
  split <;> simp_all [State.sendInterrupt, State.mapCpuOf]

/-! ### Everything an access can do when it answers -/

/-- A byte read changes nothing. -/
theorem busRead8_effect {b : BusMaster} {a : Word} {s t : State} {v : Byte} (h : busRead8 b a s = .next (v, t)) :
    t = s := by
  unfold busRead8 at h
  repeat' split at h
  all_goals simp_all

/-- A word read changes nothing, but that of CR4 ends the CD block's initialisation (R452). -/
theorem busRead16_effect {b : BusMaster} {a : Word} {s t : State} {v : Half} (h : busRead16 b a s = .next (v, t)) :
    t = s ∨ t = { s with cd := { s.cd with initializationDone := true } } := by
  unfold busRead16 at h
  split at h
  · cases h
  split at h
  · simp_all
  · cases h
  · split at h
    · next reg _ => cases reg <;> cases h <;> first | exact .inl rfl | exact .inr rfl
    · simp_all
  · cases h
  · repeat' split at h
    all_goals simp_all
  · simp_all

/-- A longword read changes nothing. -/
theorem busRead32_effect {b : BusMaster} {a : Word} {s t : State} {v : Word} (h : busRead32 b a s = .next (v, t)) :
    t = s := by
  unfold busRead32 at h
  repeat' split at h
  all_goals simp_all

/-- A byte write changes at most one byte of storage, or one of the on-chip latches of the CPU that makes it. -/
theorem busWrite8_effect {b : BusMaster} {a : Word} {v : Byte} {s t : State} (h : busWrite8 b a v s = .next t) :
    t = s ∨ (∃ p, t = { s with mem := s.mem.write p v }) ∨
      ∃ c off, b = .cpu c ∧ t = s.updateOnChip c fun m => m.write off v := by
  unfold busWrite8 at h
  split at h
  · next p w _ =>
    cases w
    · cases h; exact .inl rfl
    · cases h; exact .inr (.inl ⟨p, rfl⟩)
  · cases h
  · split at h <;> simp_all
  · cases h
  · next off _ =>
    split at h
    · simp_all
    · next c =>
      split at h
      · exact .inr (.inr ⟨c, off, rfl, by simp_all⟩)
      · cases h
  · simp_all

/-- A word write changes storage, a CD register, an interrupt-controller register or the on-chip latches. -/
theorem memWrite16_effect {a : Word} {v : Half} {s t : State} (h : memWrite16 a v s = .next t) :
    t = s ∨ (∃ p, t = { s with mem := s.mem.write16 p v }) ∨
      (∃ reg, t = { s with cd := s.cd.write16 s.config reg v }) ∨ (∃ reg, t = s.mapCpu fun c => c.writeIntc16 reg v) ∨
      ∃ off, t = s.updateOnChip s.active fun m => m.write16 off v := by
  unfold memWrite16 at h
  split at h
  · cases h
  split at h
  · next p w _ =>
    cases w
    · cases h; exact .inl rfl
    · cases h; exact .inr (.inl ⟨p, rfl⟩)
  · cases h
  · split at h
    · next reg _ => exact .inr (.inr (.inl ⟨reg, by simp_all⟩))
    · simp_all
  · cases h
  · next off _ =>
    split at h
    · next reg _ => exact .inr (.inr (.inr (.inl ⟨reg, by simp_all⟩)))
    · exact .inr (.inr (.inr (.inr ⟨off, by simp_all⟩)))
    · cases h
  · simp_all

/-- A longword write changes storage, an interrupt-controller register or the on-chip latches, or is an SCU write. -/
theorem memWrite32_effect {a : Word} {v : Word} {s t : State} (h : memWrite32 a v s = .next t) :
    t = s ∨ (∃ p, t = { s with mem := s.mem.write32 p v }) ∨
      (∃ off, scuWrite32 off v s = .next t) ∨ (∃ reg, t = s.mapCpu fun c => c.writeIntc32 reg v) ∨
      ∃ off, t = s.updateOnChip s.active fun m => m.write32 off v := by
  unfold memWrite32 at h
  split at h
  · cases h
  split at h
  · next p w _ =>
    cases w
    · cases h; exact .inl rfl
    · cases h; exact .inr (.inl ⟨p, rfl⟩)
  · cases h
  · split at h <;> simp_all
  · next off _ => exact .inr (.inr (.inl ⟨off, h⟩))
  · next off _ =>
    split at h
    · next reg _ => exact .inr (.inr (.inr (.inl ⟨reg, by simp_all⟩)))
    · exact .inr (.inr (.inr (.inr ⟨off, by simp_all⟩)))
    · cases h
  · simp_all

/-! ### The command registers of the CD block (R443; log 12) -/

theorem Cd.takesCommands_iff {c : Cd} {p : Params} :
    c.takesCommands p = true ↔ c.initializationDone = true ∨ p.cdEarlyCommand = .executed := by
  simp [Cd.takesCommands]

theorem Cd.triggerCommand_of_takes {c : Cd} {p : Params} (h : c.takesCommands p = true) :
    c.triggerCommand p = Cd.executeCommand { c with commandBeingInitialized := false } p := if_pos h

theorem Cd.triggerCommand_of_not_takes {c : Cd} {p : Params} (h : c.takesCommands p = false) :
    c.triggerCommand p = c := by
  simp [Cd.triggerCommand, h]

end Sys2Proof.Machine
end

