-- ==== Sys2Proof/Laws/PerInstr.lean ====
section
/-!
SUPPORT. Statements made for every instruction, one lemma for each: `EncodesItsRow`, that the encoded word has the fixed
bits of its row of the opcode table (R120, R130), whatever its operands.
-/

namespace Sys2Proof

/-! ### The fixed bits of each word form -/

theorem wordR_opcode (op : BitVec 4) (r : Reg) (low : BitVec 8) : wordR op r low &&& 0xF0FF = op ++ 0#4 ++ low := by
  unfold wordR
  generalize (BitVec.ofFin r : BitVec 4) = r'
  apply BitVec.eq_of_getLsbD_eq
  intro i hi
  simp only [BitVec.getLsbD_and, BitVec.getLsbD_append]
  interval_cases i <;> simp

theorem wordR_major (op : BitVec 4) (r : Reg) (low : BitVec 8) : wordR op r low &&& 0xF000 = op ++ 0#12 := by
  unfold wordR
  generalize (BitVec.ofFin r : BitVec 4) = r'
  apply BitVec.eq_of_getLsbD_eq
  intro i hi
  simp only [BitVec.getLsbD_and, BitVec.getLsbD_append]
  interval_cases i <;> simp

theorem wordRR_opcode (op : BitVec 4) (n m : Reg) (low : BitVec 4) :
    wordRR op n m low &&& 0xF00F = op ++ 0#8 ++ low := by
  unfold wordRR
  generalize (BitVec.ofFin n : BitVec 4) = n'
  generalize (BitVec.ofFin m : BitVec 4) = m'
  apply BitVec.eq_of_getLsbD_eq
  intro i hi
  simp only [BitVec.getLsbD_and, BitVec.getLsbD_append]
  interval_cases i <;> simp

theorem wordRR_major (op : BitVec 4) (n m : Reg) (low : BitVec 4) : wordRR op n m low &&& 0xF000 = op ++ 0#12 := by
  unfold wordRR
  generalize (BitVec.ofFin n : BitVec 4) = n'
  generalize (BitVec.ofFin m : BitVec 4) = m'
  apply BitVec.eq_of_getLsbD_eq
  intro i hi
  simp only [BitVec.getLsbD_and, BitVec.getLsbD_append]
  interval_cases i <;> simp

theorem wordRD_opcode (op : BitVec 8) (r : Reg) (disp : BitVec 4) : wordRD op r disp &&& 0xFF00 = op ++ 0#8 := by
  unfold wordRD
  generalize (BitVec.ofFin r : BitVec 4) = r'
  apply BitVec.eq_of_getLsbD_eq
  intro i hi
  simp only [BitVec.getLsbD_and, BitVec.getLsbD_append]
  interval_cases i <;> simp

theorem word8_opcode (op low : BitVec 8) : word8 op low &&& 0xFF00 = op ++ 0#8 := by
  unfold word8
  apply BitVec.eq_of_getLsbD_eq
  intro i hi
  simp only [BitVec.getLsbD_and, BitVec.getLsbD_append]
  interval_cases i <;> simp

theorem word12_opcode (op : BitVec 4) (disp : BitVec 12) : word12 op disp &&& 0xF000 = op ++ 0#12 := by
  unfold word12
  apply BitVec.eq_of_getLsbD_eq
  intro i hi
  simp only [BitVec.getLsbD_and, BitVec.getLsbD_append]
  interval_cases i <;> simp

end Sys2Proof

namespace Sys2Proof.Laws.EncodesItsRow

/-- The encoded word, ANDed with its row's mask, is its row's pattern (R120). -/
def Statement (i : Instr) : Prop := encode i &&& i.row.1 = i.row.2

theorem stcSr (n : Reg) : Statement (.stcSr n) := wordR_opcode _ _ _
theorem bsrf (m : Reg) : Statement (.bsrf m) := wordR_opcode _ _ _
theorem movbStoreIdx (m : Reg) (n : Reg) : Statement (.movbStoreIdx m n) := wordRR_opcode _ _ _ _
theorem movwStoreIdx (m : Reg) (n : Reg) : Statement (.movwStoreIdx m n) := wordRR_opcode _ _ _ _
theorem movlStoreIdx (m : Reg) (n : Reg) : Statement (.movlStoreIdx m n) := wordRR_opcode _ _ _ _
theorem mull (m : Reg) (n : Reg) : Statement (.mull m n) := wordRR_opcode _ _ _ _
theorem clrt : Statement (.clrt) := rfl
theorem nop : Statement (.nop) := rfl
theorem stsMach (n : Reg) : Statement (.stsMach n) := wordR_opcode _ _ _
theorem rts : Statement (.rts) := rfl
theorem movbLoadIdx (m : Reg) (n : Reg) : Statement (.movbLoadIdx m n) := wordRR_opcode _ _ _ _
theorem movwLoadIdx (m : Reg) (n : Reg) : Statement (.movwLoadIdx m n) := wordRR_opcode _ _ _ _
theorem movlLoadIdx (m : Reg) (n : Reg) : Statement (.movlLoadIdx m n) := wordRR_opcode _ _ _ _
theorem macL (m : Reg) (n : Reg) : Statement (.macL m n) := wordRR_opcode _ _ _ _
theorem stcGbr (n : Reg) : Statement (.stcGbr n) := wordR_opcode _ _ _
theorem sett : Statement (.sett) := rfl
theorem div0u : Statement (.div0u) := rfl
theorem stsMacl (n : Reg) : Statement (.stsMacl n) := wordR_opcode _ _ _
theorem sleep : Statement (.sleep) := rfl
theorem stcVbr (n : Reg) : Statement (.stcVbr n) := wordR_opcode _ _ _
theorem braf (m : Reg) : Statement (.braf m) := wordR_opcode _ _ _
theorem clrmac : Statement (.clrmac) := rfl
theorem movt (n : Reg) : Statement (.movt n) := wordR_opcode _ _ _
theorem stsPr (n : Reg) : Statement (.stsPr n) := wordR_opcode _ _ _
theorem rte : Statement (.rte) := rfl
theorem movlStoreDisp (m : Reg) (disp : BitVec 4) (n : Reg) : Statement (.movlStoreDisp m disp n) := wordRR_major _ _ _ _
theorem movbStore (m : Reg) (n : Reg) : Statement (.movbStore m n) := wordRR_opcode _ _ _ _
theorem movwStore (m : Reg) (n : Reg) : Statement (.movwStore m n) := wordRR_opcode _ _ _ _
theorem movlStore (m : Reg) (n : Reg) : Statement (.movlStore m n) := wordRR_opcode _ _ _ _
theorem movbPush (m : Reg) (n : Reg) : Statement (.movbPush m n) := wordRR_opcode _ _ _ _
theorem movwPush (m : Reg) (n : Reg) : Statement (.movwPush m n) := wordRR_opcode _ _ _ _
theorem movlPush (m : Reg) (n : Reg) : Statement (.movlPush m n) := wordRR_opcode _ _ _ _
theorem div0s (m : Reg) (n : Reg) : Statement (.div0s m n) := wordRR_opcode _ _ _ _
theorem tstReg (m : Reg) (n : Reg) : Statement (.tstReg m n) := wordRR_opcode _ _ _ _
theorem andReg (m : Reg) (n : Reg) : Statement (.andReg m n) := wordRR_opcode _ _ _ _
theorem xorReg (m : Reg) (n : Reg) : Statement (.xorReg m n) := wordRR_opcode _ _ _ _
theorem orReg (m : Reg) (n : Reg) : Statement (.orReg m n) := wordRR_opcode _ _ _ _
theorem cmpStr (m : Reg) (n : Reg) : Statement (.cmpStr m n) := wordRR_opcode _ _ _ _
theorem xtrct (m : Reg) (n : Reg) : Statement (.xtrct m n) := wordRR_opcode _ _ _ _
theorem muluw (m : Reg) (n : Reg) : Statement (.muluw m n) := wordRR_opcode _ _ _ _
theorem mulsw (m : Reg) (n : Reg) : Statement (.mulsw m n) := wordRR_opcode _ _ _ _
theorem cmpEqReg (m : Reg) (n : Reg) : Statement (.cmpEqReg m n) := wordRR_opcode _ _ _ _
theorem cmpHs (m : Reg) (n : Reg) : Statement (.cmpHs m n) := wordRR_opcode _ _ _ _
theorem cmpGe (m : Reg) (n : Reg) : Statement (.cmpGe m n) := wordRR_opcode _ _ _ _
theorem div1 (m : Reg) (n : Reg) : Statement (.div1 m n) := wordRR_opcode _ _ _ _
theorem dmulul (m : Reg) (n : Reg) : Statement (.dmulul m n) := wordRR_opcode _ _ _ _
theorem cmpHi (m : Reg) (n : Reg) : Statement (.cmpHi m n) := wordRR_opcode _ _ _ _
theorem cmpGt (m : Reg) (n : Reg) : Statement (.cmpGt m n) := wordRR_opcode _ _ _ _
theorem subReg (m : Reg) (n : Reg) : Statement (.subReg m n) := wordRR_opcode _ _ _ _
theorem subc (m : Reg) (n : Reg) : Statement (.subc m n) := wordRR_opcode _ _ _ _
theorem subv (m : Reg) (n : Reg) : Statement (.subv m n) := wordRR_opcode _ _ _ _
theorem addReg (m : Reg) (n : Reg) : Statement (.addReg m n) := wordRR_opcode _ _ _ _
theorem dmulsl (m : Reg) (n : Reg) : Statement (.dmulsl m n) := wordRR_opcode _ _ _ _
theorem addc (m : Reg) (n : Reg) : Statement (.addc m n) := wordRR_opcode _ _ _ _
theorem addv (m : Reg) (n : Reg) : Statement (.addv m n) := wordRR_opcode _ _ _ _
theorem shll (n : Reg) : Statement (.shll n) := wordR_opcode _ _ _
theorem shlr (n : Reg) : Statement (.shlr n) := wordR_opcode _ _ _
theorem stslMach (n : Reg) : Statement (.stslMach n) := wordR_opcode _ _ _
theorem stclSr (n : Reg) : Statement (.stclSr n) := wordR_opcode _ _ _
theorem rotl (n : Reg) : Statement (.rotl n) := wordR_opcode _ _ _
theorem rotr (n : Reg) : Statement (.rotr n) := wordR_opcode _ _ _
theorem ldslMach (m : Reg) : Statement (.ldslMach m) := wordR_opcode _ _ _
theorem ldclSr (m : Reg) : Statement (.ldclSr m) := wordR_opcode _ _ _
theorem shll2 (n : Reg) : Statement (.shll2 n) := wordR_opcode _ _ _
theorem shlr2 (n : Reg) : Statement (.shlr2 n) := wordR_opcode _ _ _
theorem ldsMach (m : Reg) : Statement (.ldsMach m) := wordR_opcode _ _ _
theorem jsr (m : Reg) : Statement (.jsr m) := wordR_opcode _ _ _
theorem ldcSr (m : Reg) : Statement (.ldcSr m) := wordR_opcode _ _ _
theorem macW (m : Reg) (n : Reg) : Statement (.macW m n) := wordRR_opcode _ _ _ _
theorem dt (n : Reg) : Statement (.dt n) := wordR_opcode _ _ _
theorem cmpPz (n : Reg) : Statement (.cmpPz n) := wordR_opcode _ _ _
theorem stslMacl (n : Reg) : Statement (.stslMacl n) := wordR_opcode _ _ _
theorem stclGbr (n : Reg) : Statement (.stclGbr n) := wordR_opcode _ _ _
theorem cmpPl (n : Reg) : Statement (.cmpPl n) := wordR_opcode _ _ _
theorem ldslMacl (m : Reg) : Statement (.ldslMacl m) := wordR_opcode _ _ _
theorem ldclGbr (m : Reg) : Statement (.ldclGbr m) := wordR_opcode _ _ _
theorem shll8 (n : Reg) : Statement (.shll8 n) := wordR_opcode _ _ _
theorem shlr8 (n : Reg) : Statement (.shlr8 n) := wordR_opcode _ _ _
theorem ldsMacl (m : Reg) : Statement (.ldsMacl m) := wordR_opcode _ _ _
theorem tasb (n : Reg) : Statement (.tasb n) := wordR_opcode _ _ _
theorem ldcGbr (m : Reg) : Statement (.ldcGbr m) := wordR_opcode _ _ _
theorem shal (n : Reg) : Statement (.shal n) := wordR_opcode _ _ _
theorem shar (n : Reg) : Statement (.shar n) := wordR_opcode _ _ _
theorem stslPr (n : Reg) : Statement (.stslPr n) := wordR_opcode _ _ _
theorem stclVbr (n : Reg) : Statement (.stclVbr n) := wordR_opcode _ _ _
theorem rotcl (n : Reg) : Statement (.rotcl n) := wordR_opcode _ _ _
theorem rotcr (n : Reg) : Statement (.rotcr n) := wordR_opcode _ _ _
theorem ldslPr (m : Reg) : Statement (.ldslPr m) := wordR_opcode _ _ _
theorem ldclVbr (m : Reg) : Statement (.ldclVbr m) := wordR_opcode _ _ _
theorem shll16 (n : Reg) : Statement (.shll16 n) := wordR_opcode _ _ _
theorem shlr16 (n : Reg) : Statement (.shlr16 n) := wordR_opcode _ _ _
theorem ldsPr (m : Reg) : Statement (.ldsPr m) := wordR_opcode _ _ _
theorem jmp (m : Reg) : Statement (.jmp m) := wordR_opcode _ _ _
theorem ldcVbr (m : Reg) : Statement (.ldcVbr m) := wordR_opcode _ _ _
theorem movlLoadDisp (disp : BitVec 4) (m : Reg) (n : Reg) : Statement (.movlLoadDisp disp m n) := wordRR_major _ _ _ _
theorem movbLoad (m : Reg) (n : Reg) : Statement (.movbLoad m n) := wordRR_opcode _ _ _ _
theorem movwLoad (m : Reg) (n : Reg) : Statement (.movwLoad m n) := wordRR_opcode _ _ _ _
theorem movlLoad (m : Reg) (n : Reg) : Statement (.movlLoad m n) := wordRR_opcode _ _ _ _
theorem movReg (m : Reg) (n : Reg) : Statement (.movReg m n) := wordRR_opcode _ _ _ _
theorem movbPop (m : Reg) (n : Reg) : Statement (.movbPop m n) := wordRR_opcode _ _ _ _
theorem movwPop (m : Reg) (n : Reg) : Statement (.movwPop m n) := wordRR_opcode _ _ _ _
theorem movlPop (m : Reg) (n : Reg) : Statement (.movlPop m n) := wordRR_opcode _ _ _ _
theorem notReg (m : Reg) (n : Reg) : Statement (.notReg m n) := wordRR_opcode _ _ _ _
theorem swapb (m : Reg) (n : Reg) : Statement (.swapb m n) := wordRR_opcode _ _ _ _
theorem swapw (m : Reg) (n : Reg) : Statement (.swapw m n) := wordRR_opcode _ _ _ _
theorem negc (m : Reg) (n : Reg) : Statement (.negc m n) := wordRR_opcode _ _ _ _
theorem negReg (m : Reg) (n : Reg) : Statement (.negReg m n) := wordRR_opcode _ _ _ _
theorem extub (m : Reg) (n : Reg) : Statement (.extub m n) := wordRR_opcode _ _ _ _
theorem extuw (m : Reg) (n : Reg) : Statement (.extuw m n) := wordRR_opcode _ _ _ _
theorem extsb (m : Reg) (n : Reg) : Statement (.extsb m n) := wordRR_opcode _ _ _ _
theorem extsw (m : Reg) (n : Reg) : Statement (.extsw m n) := wordRR_opcode _ _ _ _
theorem addImm (imm : BitVec 8) (n : Reg) : Statement (.addImm imm n) := wordR_major _ _ _
theorem movbStoreDisp (disp : BitVec 4) (n : Reg) : Statement (.movbStoreDisp disp n) := wordRD_opcode _ _ _
theorem movwStoreDisp (disp : BitVec 4) (n : Reg) : Statement (.movwStoreDisp disp n) := wordRD_opcode _ _ _
theorem movbLoadDisp (disp : BitVec 4) (m : Reg) : Statement (.movbLoadDisp disp m) := wordRD_opcode _ _ _
theorem movwLoadDisp (disp : BitVec 4) (m : Reg) : Statement (.movwLoadDisp disp m) := wordRD_opcode _ _ _
theorem cmpEqImm (imm : BitVec 8) : Statement (.cmpEqImm imm) := word8_opcode _ _
theorem bt (disp : BitVec 8) : Statement (.bt disp) := word8_opcode _ _
theorem bf (disp : BitVec 8) : Statement (.bf disp) := word8_opcode _ _
theorem bts (disp : BitVec 8) : Statement (.bts disp) := word8_opcode _ _
theorem bfs (disp : BitVec 8) : Statement (.bfs disp) := word8_opcode _ _
theorem movwLoadPc (disp : BitVec 8) (n : Reg) : Statement (.movwLoadPc disp n) := wordR_major _ _ _
theorem bra (disp : BitVec 12) : Statement (.bra disp) := word12_opcode _ _
theorem bsr (disp : BitVec 12) : Statement (.bsr disp) := word12_opcode _ _
theorem movbStoreGbr (disp : BitVec 8) : Statement (.movbStoreGbr disp) := word8_opcode _ _
theorem movwStoreGbr (disp : BitVec 8) : Statement (.movwStoreGbr disp) := word8_opcode _ _
theorem movlStoreGbr (disp : BitVec 8) : Statement (.movlStoreGbr disp) := word8_opcode _ _
theorem trapa (imm : BitVec 8) : Statement (.trapa imm) := word8_opcode _ _
theorem movbLoadGbr (disp : BitVec 8) : Statement (.movbLoadGbr disp) := word8_opcode _ _
theorem movwLoadGbr (disp : BitVec 8) : Statement (.movwLoadGbr disp) := word8_opcode _ _
theorem movlLoadGbr (disp : BitVec 8) : Statement (.movlLoadGbr disp) := word8_opcode _ _
theorem mova (disp : BitVec 8) : Statement (.mova disp) := word8_opcode _ _
theorem tstImm (imm : BitVec 8) : Statement (.tstImm imm) := word8_opcode _ _
theorem andImm (imm : BitVec 8) : Statement (.andImm imm) := word8_opcode _ _
theorem xorImm (imm : BitVec 8) : Statement (.xorImm imm) := word8_opcode _ _
theorem orImm (imm : BitVec 8) : Statement (.orImm imm) := word8_opcode _ _
theorem tstbGbr (imm : BitVec 8) : Statement (.tstbGbr imm) := word8_opcode _ _
theorem andbGbr (imm : BitVec 8) : Statement (.andbGbr imm) := word8_opcode _ _
theorem xorbGbr (imm : BitVec 8) : Statement (.xorbGbr imm) := word8_opcode _ _
theorem orbGbr (imm : BitVec 8) : Statement (.orbGbr imm) := word8_opcode _ _
theorem movlLoadPc (disp : BitVec 8) (n : Reg) : Statement (.movlLoadPc disp n) := wordR_major _ _ _
theorem movImm (imm : BitVec 8) (n : Reg) : Statement (.movImm imm n) := wordR_major _ _ _

end Sys2Proof.Laws.EncodesItsRow
end

