-- ==== Sys2Proof/Laws/Step.lean ====
section
/-!
SUPPORT. The induction over a step, packaged once: a predicate that the primitive changes of an instruction step keep
(`Kept`) is kept by every instruction, every slot and every step of a CPU.
-/

namespace Sys2Proof.Machine

/-! ### Results whose answer has a property -/

/-- If the operation answers, its answer has the property. -/
def Ends {α : Type} (p : α → Prop) : Result α → Prop
  | .next a    => p a
  | .fault _   => True
  | .refused _ => True

theorem Ends.of_next {α : Type} {p : α → Prop} {r : Result α} {a : α} (h : Ends p r) (hr : r = .next a) : p a := by
  subst hr; exact h

theorem ends_intro {α : Type} {p : α → Prop} {r : Result α} (h : ∀ a, r = .next a → p a) : Ends p r := by
  cases r with
  | next a => exact h a rfl
  | fault _ => trivial
  | refused _ => trivial

theorem ends_andThen {α β : Type} {p : α → Prop} {q : β → Prop} {x : Result α} {f : α → Result β}
    (hx : Ends p x) (hf : ∀ a, p a → Ends q (f a)) : Ends q (andThen x f) := by
  cases x with
  | next a => exact hf a hx
  | fault _ => trivial
  | refused _ => trivial

/-- The two CPUs' interrupt state, interrupt-controller registers and latches are the same. -/
structure SameDevices (c d : Cpu) : Prop where
  pending : d.pending = c.pending
  levelInterrupted : d.levelInterrupted = c.levelInterrupted
  current : d.current = c.current
  intc : d.intc = c.intc
  onChip : d.onChip = c.onChip

/-- The predicate is kept by every change that an instruction step is made of. -/
structure Kept (P : State → Prop) : Prop where
  cpu : ∀ s f, SameDevices s.cpu (f s.cpu) → P s → P (s.mapCpu f)
  mem : ∀ s p v, P s → P { s with mem := s.mem.write p v }
  onChip : ∀ s off v, P s → P (s.updateOnChip s.active fun m => m.write off v)
  intc16 : ∀ s reg v, P s → P (s.mapCpu fun c => c.writeIntc16 reg v)
  intc32 : ∀ s reg v, P s → P (s.mapCpu fun c => c.writeIntc32 reg v)
  cdRead : ∀ s, P s → P { s with cd := { s.cd with initializationDone := true } }
  cdWrite : ∀ s reg v, P s → P { s with cd := s.cd.write16 s.config reg v }
  scuWrite : ∀ s reg v, P s → P { s with scu := s.scu.write s.config reg v }
  enqueue : ∀ s level, P s → P { s with scu := { s.scu with
    queue := addDmaToQueue (configureDmaTransfer s.scu s.config level) s.scu.queue } }
  dequeue : ∀ s cfg rest, s.scu.queue = cfg :: rest → P s → P { s with scu := { s.scu with queue := rest } }
  channel : ∀ s level reg v, P s → P (s.putChannel level reg v)
  raise : ∀ s src, P s → P (s.scuRaise src)
  halt : ∀ s d, P s → P { s with emulationStopped := true, diagnostic := d, draws := s.draws + 1 }
  leave : ∀ s, P s → P (s.mapCpu Cpu.returnFromInterrupt)

variable {P : State → Prop}

/-! ### Accesses -/

theorem Kept.memRead8 (_ : Kept P) {s : State} {a : Word} (hp : P s) :
    Ends (fun r => P r.2) (memRead8 a s) :=
  ends_intro fun ⟨v, t⟩ e => by rw [busRead8_effect e]; exact hp

theorem Kept.memRead16 (h : Kept P) {s : State} {a : Word} (hp : P s) : Ends (fun r => P r.2) (memRead16 a s) :=
  ends_intro fun ⟨v, t⟩ e => by
    rcases busRead16_effect e with rfl | rfl
    · exact hp
    · exact h.cdRead _ hp

theorem Kept.memRead32 (_ : Kept P) {s : State} {a : Word} (hp : P s) : Ends (fun r => P r.2) (memRead32 a s) :=
  ends_intro fun ⟨v, t⟩ e => by rw [busRead32_effect e]; exact hp

theorem Kept.memWrite8 (h : Kept P) {s : State} {a : Word} {v : Byte} (hp : P s) : Ends P (memWrite8 a v s) :=
  ends_intro fun t e => by
    rcases busWrite8_effect e with rfl | ⟨p, rfl⟩ | ⟨c, off, hc, rfl⟩
    · exact hp
    · exact h.mem _ _ _ hp
    · cases hc; exact h.onChip _ _ _ hp

theorem Kept.memWrite16 (h : Kept P) {s : State} {a : Word} {v : Half} (hp : P s) : Ends P (memWrite16 a v s) :=
  ends_intro fun t e => by
    rcases memWrite16_effect e with rfl | ⟨p, rfl⟩ | ⟨reg, rfl⟩ | ⟨reg, rfl⟩ | ⟨off, rfl⟩
    · exact hp
    · exact h.mem _ _ _ (h.mem _ _ _ hp)
    · exact h.cdWrite _ _ _ hp
    · exact h.intc16 _ _ _ hp
    · have := h.onChip _ (off + 1) (v.extractLsb' 0 8) (h.onChip _ off (v.extractLsb' 8 8) hp)
      rcases s with ⟨_, _, a, _⟩
      cases a <;> exact this

theorem Kept.moveBytes (h : Kept P) {r w : Word} {cfg : DmaConfig} {bus : DmaBus} (left k : Nat) {s : State}
    (hp : P s) : Ends P (moveBytes r w cfg bus left k s) := by
  induction left generalizing k s with
  | zero => exact hp
  | succ left ih =>
    refine ends_andThen (p := fun r => P r.2) (ends_intro fun ⟨v, t⟩ e => ?_) fun ⟨b, t⟩ ht => ?_
    · rw [busRead8_effect e]; exact hp
    · refine ends_andThen (p := P) (ends_intro fun u e => ?_) fun u hu => ih _ hu
      rcases busWrite8_effect e with rfl | ⟨p, rfl⟩ | ⟨c, off, hc, rfl⟩
      · exact ht
      · exact h.mem _ _ _ ht
      · cases hc

theorem Kept.directTransfer (h : Kept P) {cfg : DmaConfig} {s : State} (hp : P s) : Ends P (directTransfer cfg s) := by
  unfold Machine.directTransfer
  simp only
  split
  · exact hp
  · refine ends_andThen (h.moveBytes _ _ hp) fun t ht => ?_
    show P (updateAddresses cfg _ _ t)
    unfold updateAddresses
    cases cfg.readAddressUpdate <;> cases cfg.writeAddressUpdate
    · exact ht
    · exact h.channel _ _ _ _ ht
    · exact h.channel _ _ _ _ ht
    · exact h.channel _ _ _ _ (h.channel _ _ _ _ ht)

theorem Kept.runChain (h : Kept P) {cfg : DmaConfig} (fuel : Nat) {a : Word} {s : State} (hp : P s) :
    Ends (fun r => P r.2) (runChain cfg fuel a s) := by
  induction fuel generalizing a s with
  | zero => trivial
  | succ fuel ih =>
    have read : ∀ {b : BusMaster} {a : Word} {s : State}, P s → Ends (fun r => P r.2) (busRead32 b a s) :=
      fun hp => ends_intro fun ⟨v, t⟩ e => by rw [busRead32_effect e]; exact hp
    unfold Machine.runChain
    refine ends_andThen (read hp) fun ⟨x, s1⟩ h1 => ends_andThen (read h1) fun ⟨y, s2⟩ h2 =>
      ends_andThen (read h2) fun ⟨z, s3⟩ h3 => ends_andThen (p := P) ?_ fun s4 h4 => ?_
    · unfold moveDescriptor
      split
      · exact h3
      · exact h.moveBytes _ _ h3
    · split
      · exact h4
      · exact ih h4

theorem Kept.executeDma (h : Kept P) {cfg : DmaConfig} {s : State} (hp : P s) : Ends P (executeDma cfg s) := by
  refine ends_andThen (p := P) ?_ fun t ht => ?_
  · cases hm : cfg.dmaMode
    · exact h.directTransfer hp
    · refine ends_andThen (h.runChain _ hp) fun ⟨a, t⟩ ht => ?_
      simp only
      split
      · exact ht
      · exact h.channel _ _ _ _ ht
  · simp only [Ends]
    split
    · exact h.channel _ _ _ _ (h.raise _ _ ht)
    · exact h.raise _ _ ht

theorem Kept.activateLoop (h : Kept P) (fuel : Nat) {s : State} (hp : P s) : Ends P (activateLoop fuel s) := by
  induction fuel generalizing s with
  | zero => exact hp
  | succ fuel ih =>
    unfold Machine.activateLoop
    split
    · exact hp
    · next cfg rest hq =>
      split
      · exact ends_andThen (h.executeDma (h.dequeue _ _ _ hq hp)) fun t ht => ih ht
      · exact hp

theorem Kept.activateDma (h : Kept P) {s : State} (hp : P s) : Ends P (activateDma s) := h.activateLoop _ hp

theorem Kept.scuWrite32 (h : Kept P) {off : Nat} {v : Word} {s : State} (hp : P s) : Ends P (scuWrite32 off v s) := by
  unfold Machine.scuWrite32
  split
  · exact hp
  · have hw := fun reg => h.scuWrite s reg v hp
    simp only
    split
    · split
      · exact h.activateDma (h.enqueue _ _ (hw _))
      · exact hw _
    · exact hw _

theorem updateOnChip_write32 (s : State) (off : Nat) (v : Word) :
    (s.updateOnChip s.active fun m => m.write32 off v) =
      let s1 := s.updateOnChip s.active fun m => m.write off (v.extractLsb' 24 8)
      let s2 := s1.updateOnChip s1.active fun m => m.write (off + 1) (v.extractLsb' 16 8)
      let s3 := s2.updateOnChip s2.active fun m => m.write (off + 2) (v.extractLsb' 8 8)
      s3.updateOnChip s3.active fun m => m.write (off + 3) (v.extractLsb' 0 8) := by
  rcases s with ⟨_, _, a, _⟩
  cases a <;> simp [State.updateOnChip, State.mapCpuOf, Memory.write32]

theorem Kept.memWrite32 (h : Kept P) {s : State} {a : Word} {v : Word} (hp : P s) : Ends P (memWrite32 a v s) :=
  ends_intro fun t e => by
    rcases memWrite32_effect e with rfl | ⟨p, rfl⟩ | ⟨off, e⟩ | ⟨reg, rfl⟩ | ⟨off, rfl⟩
    · exact hp
    · exact h.mem _ _ _ (h.mem _ _ _ (h.mem _ _ _ (h.mem _ _ _ hp)))
    · exact (h.scuWrite32 hp).of_next e
    · exact h.intc32 _ _ _ hp
    · rw [updateOnChip_write32]
      exact h.onChip _ _ _ (h.onChip _ _ _ (h.onChip _ _ _ (h.onChip _ _ _ hp)))

/-! ### Registers and shared operations -/

theorem Kept.setReg (h : Kept P) {s : State} {n : Reg} {v : Word} (hp : P s) : P (s.setReg n v) :=
  h.cpu _ _ ⟨rfl, rfl, rfl, rfl, rfl⟩ hp

theorem Kept.setPc (h : Kept P) {s : State} {v : Word} (hp : P s) : P (s.setPc v) :=
  h.cpu _ _ ⟨rfl, rfl, rfl, rfl, rfl⟩ hp

theorem Kept.setSr (h : Kept P) {s : State} {v : SR} (hp : P s) : P (s.setSr v) :=
  h.cpu _ _ ⟨rfl, rfl, rfl, rfl, rfl⟩ hp

theorem Kept.setT (h : Kept P) {s : State} {v : Bool} (hp : P s) : P (s.setT v) :=
  h.cpu _ _ ⟨rfl, rfl, rfl, rfl, rfl⟩ hp

theorem Kept.setGbr (h : Kept P) {s : State} {v : Word} (hp : P s) : P (s.setGbr v) :=
  h.cpu _ _ ⟨rfl, rfl, rfl, rfl, rfl⟩ hp

theorem Kept.setVbr (h : Kept P) {s : State} {v : Word} (hp : P s) : P (s.setVbr v) :=
  h.cpu _ _ ⟨rfl, rfl, rfl, rfl, rfl⟩ hp

theorem Kept.setMach (h : Kept P) {s : State} {v : Word} (hp : P s) : P (s.setMach v) :=
  h.cpu _ _ ⟨rfl, rfl, rfl, rfl, rfl⟩ hp

theorem Kept.setMacl (h : Kept P) {s : State} {v : Word} (hp : P s) : P (s.setMacl v) :=
  h.cpu _ _ ⟨rfl, rfl, rfl, rfl, rfl⟩ hp

theorem Kept.setPr (h : Kept P) {s : State} {v : Word} (hp : P s) : P (s.setPr v) :=
  h.cpu _ _ ⟨rfl, rfl, rfl, rfl, rfl⟩ hp

theorem Kept.setCycles (h : Kept P) {s : State} {n : Nat} (hp : P s) : P (s.setCycles n) :=
  h.cpu _ _ ⟨rfl, rfl, rfl, rfl, rfl⟩ hp

theorem Kept.setRegT (h : Kept P) {s : State} {n : Reg} {r : Word × Bool} (hp : P s) : P (s.setRegT n r) := by
  unfold State.setRegT
  exact h.setT (h.setReg hp)

theorem Kept.setMac (h : Kept P) {s : State} {v : BitVec 64} (hp : P s) : P (s.setMac v) := by
  unfold State.setMac
  exact h.setMacl (h.setMach hp)

theorem Kept.link (h : Kept P) {s : State} (hp : P s) : P s.link := h.setPr hp

theorem Kept.advance (h : Kept P) {s : State} {row : CycleRow} (hp : P s) : P (s.advance row) :=
  h.cpu _ _ ⟨rfl, rfl, rfl, rfl, rfl⟩ hp

theorem Kept.stop (h : Kept P) {s : State} {r : HaltReason} {w : Half} {pc : Word} (hp : P s) : P (s.halt r w pc) :=
  h.halt (s.setCycles (Config.freeCycles s.draws)) _ (h.setCycles hp)

theorem Kept.pushLong (h : Kept P) {n : Reg} {v : Word} {s : State} (hp : P s) : Ends P (pushLong n v s) :=
  ends_andThen (h.memWrite32 hp) fun _ ht => h.setReg ht

theorem Kept.popLong (h : Kept P) {n : Reg} {s : State} (hp : P s) : Ends (fun r => P r.2) (popLong n s) :=
  ends_andThen (h.memRead32 hp) fun _ ht => h.setReg ht

theorem Kept.pushFrameWord (h : Kept P) {v : Word} {s : State} (hp : P s) : Ends P (pushFrameWord v s) :=
  h.memWrite32 (h.setReg hp)

/-- Taking an exception, where `update` leads from the predicate to another that the rest keeps. -/
theorem Kept.takeException {Q : State → Prop} (h : Kept P) (hq : Kept Q) {v : Byte} {pc : Word} {f : Cpu → Cpu}
    {n : Nat} {s : State} (hf : ∀ u, P u → Q (u.mapCpu f)) (hp : P s) : Ends Q (takeException v pc f n s) :=
  ends_andThen (h.pushFrameWord hp) fun _ h1 => ends_andThen (h.pushFrameWord h1) fun _ h2 =>
    ends_andThen (hq.memRead32 (hf _ h2)) fun _ h3 =>
      hq.setCycles (hq.setPc h3)

theorem Kept.returnFromException (h : Kept P) {s : State} (hp : P s) :
    Ends (fun r => P r.2) (returnFromException s) :=
  ends_andThen (h.popLong hp) fun _ h1 => ends_andThen (h.popLong h1) fun _ h2 =>
    h.leave _ (h.setSr h2)

/-! ### Instructions -/

/-- The state a flow has reached. -/
def Flow.state : Flow → State
  | .done s     => s
  | .slot s _ _ => s

theorem Kept.loadByte (h : Kept P) {a : Word} {n : Reg} {s : State} (hp : P s) : Ends P (loadByte a n s) :=
  ends_andThen (h.memRead8 hp) fun _ ht => h.advance (h.setReg ht)

theorem Kept.loadWord (h : Kept P) {a : Word} {n : Reg} {s : State} (hp : P s) : Ends P (loadWord a n s) :=
  ends_andThen (h.memRead16 hp) fun _ ht => h.advance (h.setReg ht)

theorem Kept.loadLong (h : Kept P) {a : Word} {n : Reg} {s : State} (hp : P s) : Ends P (loadLong a n s) :=
  ends_andThen (h.memRead32 hp) fun _ ht => h.advance (h.setReg ht)

theorem Kept.storeByte (h : Kept P) {a v : Word} {s : State} (hp : P s) : Ends P (storeByte a v s) :=
  ends_andThen (h.memWrite8 hp) fun _ ht => h.advance ht

theorem Kept.storeWord (h : Kept P) {a v : Word} {s : State} (hp : P s) : Ends P (storeWord a v s) :=
  ends_andThen (h.memWrite16 hp) fun _ ht => h.advance ht

theorem Kept.storeLong (h : Kept P) {a v : Word} {s : State} (hp : P s) : Ends P (storeLong a v s) :=
  ends_andThen (h.memWrite32 hp) fun _ ht => h.advance ht

theorem Kept.postIncrement (h : Kept P) {m n : Reg} {k : Word} {s : State} (hp : P s) :
    P (postIncrement m n k s) := by
  unfold Machine.postIncrement
  split
  · exact hp
  · exact h.setReg hp

theorem Kept.storePush (h : Kept P) {n : Reg} {v : Word} {row : CycleRow} {s : State} (hp : P s) :
    Ends P (storePush n v row s) :=
  ends_andThen (h.pushLong hp) fun _ ht => h.advance ht

theorem Kept.loadPop (h : Kept P) {m : Reg} {put : State → Word → State} {row : CycleRow} {s : State}
    (hput : ∀ u v, P u → P (put u v)) (hp : P s) : Ends P (loadPop m put row s) :=
  ends_andThen (h.popLong hp) fun _ ht => h.advance (hput _ _ ht)

theorem Kept.modifyGbrByte (h : Kept P) {f : Byte → Byte} {s : State} (hp : P s) : Ends P (modifyGbrByte f s) :=
  ends_andThen (h.memRead8 hp) fun _ h1 => ends_andThen (h.memWrite8 h1) fun _ h2 => h.advance h2

theorem Kept.popWord (h : Kept P) {n : Reg} {s : State} (hp : P s) : Ends (fun r => P r.2) (popWord n s) :=
  ends_andThen (h.memRead16 hp) fun _ ht => h.setReg ht

theorem Kept.complete (_ : Kept P) {r : Result State} (hr : Ends P r) : Ends (fun f => P f.state) (complete r) :=
  ends_andThen hr fun _ ht => ht

/-- The branches without a slot. -/
theorem Kept.branch (h : Kept P) {t : Bool} {target : Word} {n : Nat} {row : CycleRow} {s : State} (hp : P s) :
    Ends P (if t then .next ((s.setPc target).setCycles n) else .next (s.advance row) : Result State) ∧
    Ends P (if t then .next (s.advance row) else .next ((s.setPc target).setCycles n) : Result State) := by
  cases t
  · exact ⟨h.advance hp, h.setCycles (h.setPc hp)⟩
  · exact ⟨h.setCycles (h.setPc hp), h.advance hp⟩

/-- Whatever an instruction does up to its own slot keeps the predicate. -/
theorem Kept.flowOf (h : Kept P) (i : Instr) {s : State} (hp : P s) : Ends (fun f => P f.state) (flowOf i s) := by
  cases i
  case bf => exact h.complete (h.branch hp).2
  case bt => exact h.complete (h.branch hp).1
  case bts d =>
    show Ends _ (captureBts d s)
    unfold captureBts
    split
    exacts [hp, h.advance hp]
  case bfs d =>
    show Ends _ (captureBfs d s)
    unfold captureBfs
    split
    exacts [h.advance hp, hp]
  case bra | braf | jmp | rts => exact hp
  case bsr | bsrf | jsr => exact h.link hp
  case rte => exact ends_andThen (h.returnFromException hp) fun _ ht => ht
  case trapa => exact h.complete (h.takeException h (fun _ hu => h.cpu _ _ ⟨rfl, rfl, rfl, rfl, rfl⟩ hu) hp)
  case movbLoad | movbLoadDisp | movbLoadIdx | movbLoadGbr => exact h.complete (h.loadByte hp)
  case movwLoad | movwLoadDisp | movwLoadIdx | movwLoadGbr | movwLoadPc => exact h.complete (h.loadWord hp)
  case movlLoad | movlLoadDisp | movlLoadIdx | movlLoadGbr | movlLoadPc => exact h.complete (h.loadLong hp)
  case movbStore | movbStoreDisp | movbStoreIdx | movbStoreGbr => exact h.complete (h.storeByte hp)
  case movwStore | movwStoreDisp | movwStoreIdx | movwStoreGbr => exact h.complete (h.storeWord hp)
  case movlStore | movlStoreDisp | movlStoreIdx | movlStoreGbr => exact h.complete (h.storeLong hp)
  case movbPush => exact h.complete (ends_andThen (h.memWrite8 hp) fun _ ht => h.advance (h.setReg ht))
  case movwPush => exact h.complete (ends_andThen (h.memWrite16 hp) fun _ ht => h.advance (h.setReg ht))
  case movlPush => exact h.complete (ends_andThen (h.pushLong hp) fun _ ht => h.advance ht)
  case movbPop =>
    exact h.complete (ends_andThen (h.memRead8 hp) fun _ ht => h.advance (h.setReg (h.postIncrement ht)))
  case movwPop =>
    exact h.complete (ends_andThen (h.memRead16 hp) fun _ ht => h.advance (h.setReg (h.postIncrement ht)))
  case movlPop =>
    exact h.complete (ends_andThen (h.memRead32 hp) fun _ ht => h.advance (h.setReg (h.postIncrement ht)))
  case stclSr | stclGbr | stclVbr | stslMach | stslMacl | stslPr => exact h.complete (h.storePush hp)
  case ldclSr => exact h.complete (h.loadPop (fun _ _ hu => h.setSr hu) hp)
  case ldclGbr => exact h.complete (h.loadPop (fun _ _ hu => h.setGbr hu) hp)
  case ldclVbr => exact h.complete (h.loadPop (fun _ _ hu => h.setVbr hu) hp)
  case ldslMach => exact h.complete (h.loadPop (fun _ _ hu => h.setMach hu) hp)
  case ldslMacl => exact h.complete (h.loadPop (fun _ _ hu => h.setMacl hu) hp)
  case ldslPr => exact h.complete (h.loadPop (fun _ _ hu => h.setPr hu) hp)
  case andbGbr | orbGbr | xorbGbr => exact h.complete (h.modifyGbrByte hp)
  case tstbGbr => exact h.complete (ends_andThen (h.memRead8 hp) fun _ ht => h.advance (h.setT ht))
  case tasb =>
    exact h.complete (ends_andThen (h.memRead8 hp) fun _ h1 => ends_andThen (h.memWrite8 h1) fun _ h2 =>
      h.advance (h.setT h2))
  case macL =>
    exact h.complete (ends_andThen (h.popLong hp) fun _ h1 => ends_andThen (h.popLong h1) fun _ h2 =>
      h.advance (h.setMac h2))
  case macW =>
    exact h.complete (ends_andThen (h.popWord hp) fun _ h1 => ends_andThen (h.popWord h1) fun _ h2 =>
      h.advance (h.setMac h2))
  case addc | addv | subc | subv | negc | dt | rotl | rotr | rotcl | rotcr | shal | shar | shll | shlr =>
    exact h.complete (h.advance (h.setRegT hp))
  case cmpEqImm | cmpEqReg | cmpHs | cmpGe | cmpHi | cmpGt | cmpPl | cmpPz | cmpStr | tstReg | tstImm | clrt | sett =>
    exact h.complete (h.advance (h.setT hp))
  case div1 => exact h.complete (h.advance (h.setSr (h.setReg hp)))
  case div0s | div0u | ldcSr => exact h.complete (h.advance (h.setSr hp))
  case dmulsl | dmulul => exact h.complete (h.advance (h.setMac hp))
  case mull | mulsw | muluw | ldsMacl => exact h.complete (h.advance (h.setMacl hp))
  case clrmac => exact h.complete (h.advance (h.setMacl (h.setMach hp)))
  case ldcGbr => exact h.complete (h.advance (h.setGbr hp))
  case ldcVbr => exact h.complete (h.advance (h.setVbr hp))
  case ldsMach => exact h.complete (h.advance (h.setMach hp))
  case ldsPr => exact h.complete (h.advance (h.setPr hp))
  case nop => exact h.complete (h.advance hp)
  case sleep => exact h.complete (h.advance (h.cpu _ _ ⟨rfl, rfl, rfl, rfl, rfl⟩ hp))
  all_goals exact h.complete (h.advance (h.setReg hp))

/-! ### Slots and steps -/

theorem Kept.commit (h : Kept P) {s : State} {target : Word} {n : Nat} (hp : P s) : P (s.commit target n) :=
  h.cpu _ _ ⟨rfl, rfl, rfl, rfl, rfl⟩ hp

theorem Kept.endStep (h : Kept P) {s : State} (hp : P s) : P s.endStep :=
  h.cpu _ _ ⟨rfl, rfl, rfl, rfl, rfl⟩ hp

/-- The state a slot's end leaves keeps the predicate. -/
theorem Kept.runSlot (h : Kept P) (fuel : Nat) {a : Word} {s : State} (hp : P s) :
    Ends (fun e => P e.state) (runSlot fuel a s) := by
  induction fuel generalizing a s with
  | zero => trivial
  | succ fuel ih =>
    unfold Machine.runSlot
    split
    · trivial
    refine ends_andThen (h.memRead16 hp) fun ⟨w, t⟩ ht => ?_
    simp only
    split
    · exact h.stop ht
    split
    · exact h.stop (h.setPc ht)
    split
    · cases t.config.pcRelInSlot; trivial
    refine ends_andThen (h.flowOf _ (h.setPc ht)) fun f hf => ?_
    cases f with
    | done u => exact hf
    | slot u target cost =>
      refine ends_andThen (ih hf) fun e he => ?_
      cases e with
      | completed v => exact h.commit he
      | halted v => exact he

/-- An instruction keeps the predicate. -/
theorem Kept.delayedBranch (h : Kept P) {capture : State → Result Flow} {s : State}
    (hc : Ends (fun f => P f.state) (capture s)) : Ends P (delayedBranch capture s) := by
  refine ends_andThen hc fun f hf => ends_andThen (p := fun e : SlotEnd => P e.state) ?_ fun _ he => he
  cases f with
  | done u => exact hf
  | slot u target cost =>
    refine ends_andThen (h.runSlot _ hf) fun e he => ?_
    cases e with
    | completed v => exact h.commit he
    | halted v => exact he

/-- For an instruction without a slot, `exec` is the whole of its flow; for the others, its delayed branch. -/
theorem exec_eq_flow (i : Instr) (s : State) :
    exec i s = delayedBranch (flowOf i) s ∨ complete (exec i s) = flowOf i s := by
  cases i <;> first | exact .inr rfl | exact .inl rfl

/-- Every instruction keeps the predicate. -/
theorem Kept.exec (h : Kept P) (i : Instr) {s : State} (hp : P s) : Ends P (exec i s) := by
  rcases exec_eq_flow i s with e | e
  · rw [e]; exact h.delayedBranch (h.flowOf i hp)
  · have hf := h.flowOf i hp
    rw [← e] at hf
    revert hf
    cases Machine.exec i s <;> exact id

/-- Every step of a CPU keeps the predicate. While an interrupt is being taken another predicate may stand in its
place. -/
theorem Kept.cpuStep (h : Kept P) {Q : Interrupt → State → Prop} (hq : ∀ d, Kept (Q d))
    (take : ∀ s d, s.cpu.acceptable = some d → P s →
      Q d (s.mapCpu fun c => { c with pending := c.pending.erase d }))
    (enter : ∀ s d, Q d s → P (s.mapCpu (Cpu.enterInterrupt d))) {s : State} (hp : P s) : Ends P (cpuStep s) := by
  unfold Machine.cpuStep
  split
  · next d hd => exact (hq d).takeException h (fun u hu => enter u d hu) (take s d hd hp)
  split
  · exact h.setCycles hp
  split
  · trivial
  refine ends_andThen (h.memRead16 hp) fun ⟨w, t⟩ ht => ?_
  simp only
  split
  · exact h.stop ht
  · exact ends_andThen (h.exec _ ht) fun _ hu => h.endStep hu

/-- The predicate is kept by every call of the host (R8). -/
structure KeptByHost (P : State → Prop) : Prop where
  inputs : ∀ s rest, P s → P { s with hostInputs := rest }
  active : ∀ s c, P s → P { s with active := c }
  cdRun : ∀ s n, P s → P { s with cd := s.cd.run s.config n }
  release : ∀ s code, P s → P { s with scu := { s.scu with queue := s.scu.queue.map fun cfg => cfg.release code } }
  send : ∀ s c d, P s → P (s.sendInterrupt c d)
  pin : ∀ s c level, P s → P (s.mapCpuOf c fun cpu => { cpu with nmiPin := level })
  resetScu : ∀ s, P s → P s.resetScu
  resetCd : ∀ s, P s → P s.resetCd
  powerOn : ∀ s c pc sp free n, P s → P { s.mapCpuOf c (fun cpu => cpu.powerOn pc sp free) with draws := n }
  resume : ∀ s, P s → P { s with emulationStopped := false, diagnostic := none }

theorem KeptByHost.powerOnReset (hh : KeptByHost P) (c : CpuId) {s : State} (hp : P s) : Ends P (powerOnReset c s) := by
  unfold Machine.powerOnReset
  refine ends_andThen (p := fun r => P r.2) (ends_intro fun ⟨v, t⟩ e => ?_) fun ⟨pc, t⟩ ht =>
    ends_andThen (p := fun r => P r.2) (ends_intro fun ⟨v, u⟩ e => ?_) fun ⟨sp, u⟩ hu => hh.powerOn _ _ _ _ _ _ hu
  · rw [busRead32_effect e]; exact hp
  · rw [busRead32_effect e]; exact ht

/-- Every step of the core keeps a predicate that the host's calls keep, the primitive changes keep, and the steps of
a CPU keep. -/
theorem Kept.step (h : Kept P) (hh : KeptByHost P) (hcpu : ∀ s, P s → Ends P (Machine.cpuStep s)) {s : State} (hp : P s) :
    Ends P (Machine.step s) := by
  unfold Machine.step coreStep
  split
  · split
    · trivial
    · exact hcpu _ hp
  · next a rest _ =>
    split
    · trivial
    have hp := hh.inputs s rest hp
    cases a with
    | stepCpu c => exact hcpu _ (hh.active _ c hp)
    | cdRun n => exact hh.cdRun _ _ hp
    | startFactor e => exact h.activateDma (hh.release _ _ hp)
    | scuRaise src => exact h.raise _ _ hp
    | sendInterrupt c d => exact hh.send _ _ _ hp
    | nmiPin c level => exact hh.pin _ _ _ hp
    | resetScu => exact hh.resetScu _ hp
    | resetCd => exact hh.resetCd _ hp
    | resetCpu c => exact hh.powerOnReset _ hp
    | powerOn =>
      exact ends_andThen (hh.powerOnReset _ (hh.resume _ (hh.resetCd _ (hh.resetScu _ hp)))) fun _ hu =>
        hh.powerOnReset _ hu

end Sys2Proof.Machine
end

