-- ==== Sys2Proof/Tests/Slice0.lean ====
section
/-!
SUPPORT. Tests. Expected values come from the spec: the example under each instruction's rule, and the vectors and
scenarios of 95_test_vectors.md. At the end, for every statement with hypotheses, a theorem `witness_<its name>` that
shows states and operands which meet them.
-/

open Sys2Proof Sys2Proof.Machine

namespace Sys2Proof.Tests

/-! ### States built from items -/

/-- Something a test puts into the state, or looks for in it. -/
inductive Item
  | r (n : Reg) (v : Word)
  | pc (v : Word)
  | t (b : Bool)
  | q (b : Bool)
  | m (b : Bool)
  | s (b : Bool)
  | i (v : BitVec 4)
  | gbr (v : Word)
  | vbr (v : Word)
  | mach (v : Word)
  | macl (v : Word)
  | pr (v : Word)
  | b8 (addr : Word) (v : Byte)
  | b16 (addr : Word) (v : Half)
  | b32 (addr : Word) (v : Word)
  | cycles (n : Nat)
  | asleep (b : Bool)
  | quirk (b : Bool)
  | current (d : Option Interrupt)
  | pending (l : List Interrupt)
  | flags (l : List (Fin 17))
  | ist (v : Word)
  | ims (v : Word)
  | due (l : List HostAction)

/-- The address of a byte of storage. -/
def physical (addr : Word) : Nat := (addr &&& 0x07FFFFFF).toNat

/-- The state with an item put into it; registers are the active CPU's. -/
def Item.put (x : Item) (u : State) : State :=
  match x with
  | .r n v     => u.mapCpu fun c => { c with r := c.r.set n v }
  | .pc v      => u.mapCpu fun c => { c with pc := v }
  | .t b       => u.mapCpu fun c => { c with sr := { c.sr with t := b } }
  | .q b       => u.mapCpu fun c => { c with sr := { c.sr with q := b } }
  | .m b       => u.mapCpu fun c => { c with sr := { c.sr with m := b } }
  | .s b       => u.mapCpu fun c => { c with sr := { c.sr with s := b } }
  | .i v       => u.mapCpu fun c => { c with sr := { c.sr with i := v } }
  | .gbr v     => u.mapCpu fun c => { c with gbr := v }
  | .vbr v     => u.mapCpu fun c => { c with vbr := v }
  | .mach v    => u.mapCpu fun c => { c with mach := v }
  | .macl v    => u.mapCpu fun c => { c with macl := v }
  | .pr v      => u.mapCpu fun c => { c with pr := v }
  | .b8 a v    => { u with mem := u.mem.write (physical a) v }
  | .b16 a v   => { u with mem := u.mem.write16 (physical a) v }
  | .b32 a v   => { u with mem := u.mem.write32 (physical a) v }
  | .cycles n  => u.mapCpu fun c => { c with cyclesElapsed := n }
  | .asleep b  => u.mapCpu fun c => { c with sleeping := b }
  | .quirk b   => u.mapCpu fun c => { c with porSlotQuirk := b }
  | .current d => u.mapCpu fun c => { c with current := d }
  | .pending l => u.mapCpu fun c => { c with pending := l }
  | .flags l   => u.mapCpu fun c =>
      { c with levelInterrupted := Vector.ofFn fun k => l.contains k }
  | .ist v     => { u with scu := { u.scu with ist := v } }
  | .ims v     => { u with scu := { u.scu with ims := v } }
  | .due l     => { u with hostInputs := l }

/-- The state shows the item. -/
def Item.shown (x : Item) (u : State) : Bool :=
  match x with
  | .r n v     => u.cpu.r.get n == v
  | .pc v      => u.cpu.pc == v
  | .t b       => u.cpu.sr.t == b
  | .q b       => u.cpu.sr.q == b
  | .m b       => u.cpu.sr.m == b
  | .s b       => u.cpu.sr.s == b
  | .i v       => u.cpu.sr.i == v
  | .gbr v     => u.cpu.gbr == v
  | .vbr v     => u.cpu.vbr == v
  | .mach v    => u.cpu.mach == v
  | .macl v    => u.cpu.macl == v
  | .pr v      => u.cpu.pr == v
  | .b8 a v    => u.mem.read (physical a) == v
  | .b16 a v   => u.mem.read16 (physical a) == v
  | .b32 a v   => u.mem.read32 (physical a) == v
  | .cycles n  => u.cpu.cyclesElapsed == n
  | .asleep b  => u.cpu.sleeping == b
  | .quirk b   => u.cpu.porSlotQuirk == b
  | .current d => u.cpu.current == d
  | .pending l => u.cpu.pending == l
  | .flags l   => u.cpu.levelInterrupted == Vector.ofFn fun k => l.contains k
  | .ist v     => u.scu.ist == v
  | .ims v     => u.scu.ims == v
  | .due l     => u.hostInputs == l

/-- The state a vector starts from (95_test_vectors.md, conventions): `pc = 0x06004000`, `SR = 0`, the quirk over,
everything else as after reset; then the items. -/
def start (before : List Item) : State :=
  before.foldl (fun u x => x.put u) (Item.put (.i 0) (Item.put (.quirk false) (Item.put (.pc 0x06004000) State.reset)))

/-- One step from the items leads to a state that shows the others. -/
def leads (before after : List Item) : Bool :=
  match step (start before) with
  | .next u    => !u.emulationStopped && after.all fun x => x.shown u
  | .fault _   => false
  | .refused _ => false

/-- One step from the items halts with this reason, word and pc, in a state that shows the others. -/
def halts (before : List Item) (why : HaltReason) (word : Half) (pc : Word) (after : List Item) : Bool :=
  match step (start before) with
  | .next u    => u.diagnostic == some ⟨why, .master, word, pc⟩ && u.emulationStopped && after.all fun x => x.shown u
  | .fault _   => false
  | .refused _ => false

/-- One step from the items faults so. -/
def faults (before : List Item) (f : Fault) : Bool :=
  match step (start before) with
  | .next _    => false
  | .fault g   => g == f
  | .refused _ => false

/-! ### Well-formed code -/

/-- Each of the thirteen of R180 after a delayed branch is refused (R581). -/
theorem test_illegal_slots_refused :
    ∀ i ∈ ([.bsrf 1, .braf 1, .rts, .rte, .jsr 1, .jmp 1, .bt 2, .bf 2, .bts 2, .bfs 2, .bra 2, .bsr 2,
        .trapa 0x20] : List Instr),
      Code.wellFormed [.bra 2, i, .nop] = false := by decide

/-- Each PC-relative form after a delayed branch is refused (R185, R581). -/
theorem test_pc_relative_slots_refused :
    Code.wellFormed [.rts, .movwLoadPc 0 1] = false ∧ Code.wellFormed [.rts, .movlLoadPc 0 1] = false ∧
    Code.wellFormed [.rts, .mova 0] = false := by decide

/-- A delayed branch with nothing in its slot is refused. -/
theorem test_missing_slot_refused :
    ∀ i ∈ ([.bra 0, .bsr 0, .braf 0, .bsrf 0, .jmp 0, .jsr 0, .rts, .rte, .bts 0, .bfs 0] : List Instr),
      Code.wellFormed [.nop, i] = false := by decide

/-- Code that obeys R581 is accepted: a slot with a legal instruction, and branches without a slot. -/
theorem test_well_formed_code :
    Code.wellFormed [.movImm 5 1, .jsr 2, .addImm 1 1, .bt 0x80, .bf 2, .trapa 0x20, .rte, .nop] = true := by decide

/-! ### Decoding -/

/-- System control: words written out from the encoding column of R130. -/
theorem test_decode_system_control :
    decodeWord 0b0000101100000010 = some (.stcSr 11) ∧
    decodeWord 0b0000000000001000 = some .clrt ∧
    decodeWord 0b0000000000001001 = some .nop ∧
    decodeWord 0b0000101100001010 = some (.stsMach 11) ∧
    decodeWord 0b0000101100010010 = some (.stcGbr 11) ∧
    decodeWord 0b0000000000011000 = some .sett ∧
    decodeWord 0b0000101100011010 = some (.stsMacl 11) ∧
    decodeWord 0b0000000000011011 = some .sleep ∧
    decodeWord 0b0000101100100010 = some (.stcVbr 11) ∧
    decodeWord 0b0000000000101000 = some .clrmac ∧
    decodeWord 0b0000101100101010 = some (.stsPr 11) ∧
    decodeWord 0b0000000000101011 = some .rte ∧
    decodeWord 0b0100101100000010 = some (.stslMach 11) ∧
    decodeWord 0b0100101100000011 = some (.stclSr 11) ∧
    decodeWord 0b0100010000000110 = some (.ldslMach 4) ∧
    decodeWord 0b0100010000000111 = some (.ldclSr 4) ∧
    decodeWord 0b0100010000001010 = some (.ldsMach 4) ∧
    decodeWord 0b0100010000001110 = some (.ldcSr 4) ∧
    decodeWord 0b0100101100010010 = some (.stslMacl 11) ∧
    decodeWord 0b0100101100010011 = some (.stclGbr 11) ∧
    decodeWord 0b0100010000010110 = some (.ldslMacl 4) ∧
    decodeWord 0b0100010000010111 = some (.ldclGbr 4) ∧
    decodeWord 0b0100010000011010 = some (.ldsMacl 4) ∧
    decodeWord 0b0100010000011110 = some (.ldcGbr 4) ∧
    decodeWord 0b0100101100100010 = some (.stslPr 11) ∧
    decodeWord 0b0100101100100011 = some (.stclVbr 11) ∧
    decodeWord 0b0100010000100110 = some (.ldslPr 4) ∧
    decodeWord 0b0100010000100111 = some (.ldclVbr 4) ∧
    decodeWord 0b0100010000101010 = some (.ldsPr 4) ∧
    decodeWord 0b0100010000101110 = some (.ldcVbr 4) ∧
    decodeWord 0b1100001110100101 = some (.trapa 0xA5) := by decide

/-- Branch: words written out from the encoding column of R130. -/
theorem test_decode_branch :
    decodeWord 0b0000010000000011 = some (.bsrf 4) ∧
    decodeWord 0b0000000000001011 = some .rts ∧
    decodeWord 0b0000010000100011 = some (.braf 4) ∧
    decodeWord 0b0100010000001011 = some (.jsr 4) ∧
    decodeWord 0b0100010000101011 = some (.jmp 4) ∧
    decodeWord 0b1000100110100101 = some (.bt 0xA5) ∧
    decodeWord 0b1000101110100101 = some (.bf 0xA5) ∧
    decodeWord 0b1000110110100101 = some (.bts 0xA5) ∧
    decodeWord 0b1000111110100101 = some (.bfs 0xA5) ∧
    decodeWord 0b1010100111000110 = some (.bra 0x9C6) ∧
    decodeWord 0b1011100111000110 = some (.bsr 0x9C6) := by decide

/-- Data transfer: words written out from the encoding column of R130. -/
theorem test_decode_data_transfer :
    decodeWord 0b0000101101000100 = some (.movbStoreIdx 4 11) ∧
    decodeWord 0b0000101101000101 = some (.movwStoreIdx 4 11) ∧
    decodeWord 0b0000101101000110 = some (.movlStoreIdx 4 11) ∧
    decodeWord 0b0000101101001100 = some (.movbLoadIdx 4 11) ∧
    decodeWord 0b0000101101001101 = some (.movwLoadIdx 4 11) ∧
    decodeWord 0b0000101101001110 = some (.movlLoadIdx 4 11) ∧
    decodeWord 0b0000101100101001 = some (.movt 11) ∧
    decodeWord 0b0001101101000110 = some (.movlStoreDisp 4 0x6 11) ∧
    decodeWord 0b0010101101000000 = some (.movbStore 4 11) ∧
    decodeWord 0b0010101101000001 = some (.movwStore 4 11) ∧
    decodeWord 0b0010101101000010 = some (.movlStore 4 11) ∧
    decodeWord 0b0010101101000100 = some (.movbPush 4 11) ∧
    decodeWord 0b0010101101000101 = some (.movwPush 4 11) ∧
    decodeWord 0b0010101101000110 = some (.movlPush 4 11) ∧
    decodeWord 0b0010101101001101 = some (.xtrct 4 11) ∧
    decodeWord 0b0101101101000110 = some (.movlLoadDisp 0x6 4 11) ∧
    decodeWord 0b0110101101000000 = some (.movbLoad 4 11) ∧
    decodeWord 0b0110101101000001 = some (.movwLoad 4 11) ∧
    decodeWord 0b0110101101000010 = some (.movlLoad 4 11) ∧
    decodeWord 0b0110101101000011 = some (.movReg 4 11) ∧
    decodeWord 0b0110101101000100 = some (.movbPop 4 11) ∧
    decodeWord 0b0110101101000101 = some (.movwPop 4 11) ∧
    decodeWord 0b0110101101000110 = some (.movlPop 4 11) ∧
    decodeWord 0b0110101101001000 = some (.swapb 4 11) ∧
    decodeWord 0b0110101101001001 = some (.swapw 4 11) ∧
    decodeWord 0b1000000010110110 = some (.movbStoreDisp 0x6 11) ∧
    decodeWord 0b1000000110110110 = some (.movwStoreDisp 0x6 11) ∧
    decodeWord 0b1000010001000110 = some (.movbLoadDisp 0x6 4) ∧
    decodeWord 0b1000010101000110 = some (.movwLoadDisp 0x6 4) ∧
    decodeWord 0b1001101110100101 = some (.movwLoadPc 0xA5 11) ∧
    decodeWord 0b1100000010100101 = some (.movbStoreGbr 0xA5) ∧
    decodeWord 0b1100000110100101 = some (.movwStoreGbr 0xA5) ∧
    decodeWord 0b1100001010100101 = some (.movlStoreGbr 0xA5) ∧
    decodeWord 0b1100010010100101 = some (.movbLoadGbr 0xA5) ∧
    decodeWord 0b1100010110100101 = some (.movwLoadGbr 0xA5) ∧
    decodeWord 0b1100011010100101 = some (.movlLoadGbr 0xA5) ∧
    decodeWord 0b1100011110100101 = some (.mova 0xA5) ∧
    decodeWord 0b1101101110100101 = some (.movlLoadPc 0xA5 11) ∧
    decodeWord 0b1110101110100101 = some (.movImm 0xA5 11) := by decide

/-- Arithmetic: words written out from the encoding column of R130. -/
theorem test_decode_arithmetic :
    decodeWord 0b0000101101000111 = some (.mull 4 11) ∧
    decodeWord 0b0000101101001111 = some (.macL 4 11) ∧
    decodeWord 0b0000000000011001 = some .div0u ∧
    decodeWord 0b0010101101000111 = some (.div0s 4 11) ∧
    decodeWord 0b0010101101001100 = some (.cmpStr 4 11) ∧
    decodeWord 0b0010101101001110 = some (.muluw 4 11) ∧
    decodeWord 0b0010101101001111 = some (.mulsw 4 11) ∧
    decodeWord 0b0011101101000000 = some (.cmpEqReg 4 11) ∧
    decodeWord 0b0011101101000010 = some (.cmpHs 4 11) ∧
    decodeWord 0b0011101101000011 = some (.cmpGe 4 11) ∧
    decodeWord 0b0011101101000100 = some (.div1 4 11) ∧
    decodeWord 0b0011101101000101 = some (.dmulul 4 11) ∧
    decodeWord 0b0011101101000110 = some (.cmpHi 4 11) ∧
    decodeWord 0b0011101101000111 = some (.cmpGt 4 11) ∧
    decodeWord 0b0011101101001000 = some (.subReg 4 11) ∧
    decodeWord 0b0011101101001010 = some (.subc 4 11) ∧
    decodeWord 0b0011101101001011 = some (.subv 4 11) ∧
    decodeWord 0b0011101101001100 = some (.addReg 4 11) ∧
    decodeWord 0b0011101101001101 = some (.dmulsl 4 11) ∧
    decodeWord 0b0011101101001110 = some (.addc 4 11) ∧
    decodeWord 0b0011101101001111 = some (.addv 4 11) ∧
    decodeWord 0b0100101101001111 = some (.macW 4 11) ∧
    decodeWord 0b0100101100010000 = some (.dt 11) ∧
    decodeWord 0b0100101100010001 = some (.cmpPz 11) ∧
    decodeWord 0b0100101100010101 = some (.cmpPl 11) ∧
    decodeWord 0b0110101101001010 = some (.negc 4 11) ∧
    decodeWord 0b0110101101001011 = some (.negReg 4 11) ∧
    decodeWord 0b0110101101001100 = some (.extub 4 11) ∧
    decodeWord 0b0110101101001101 = some (.extuw 4 11) ∧
    decodeWord 0b0110101101001110 = some (.extsb 4 11) ∧
    decodeWord 0b0110101101001111 = some (.extsw 4 11) ∧
    decodeWord 0b0111101110100101 = some (.addImm 0xA5 11) ∧
    decodeWord 0b1000100010100101 = some (.cmpEqImm 0xA5) := by decide

/-- Logic and shift: words written out from the encoding column of R130. -/
theorem test_decode_logic_and_shift :
    decodeWord 0b0010101101001000 = some (.tstReg 4 11) ∧
    decodeWord 0b0010101101001001 = some (.andReg 4 11) ∧
    decodeWord 0b0010101101001010 = some (.xorReg 4 11) ∧
    decodeWord 0b0010101101001011 = some (.orReg 4 11) ∧
    decodeWord 0b0100101100000000 = some (.shll 11) ∧
    decodeWord 0b0100101100000001 = some (.shlr 11) ∧
    decodeWord 0b0100101100000100 = some (.rotl 11) ∧
    decodeWord 0b0100101100000101 = some (.rotr 11) ∧
    decodeWord 0b0100101100001000 = some (.shll2 11) ∧
    decodeWord 0b0100101100001001 = some (.shlr2 11) ∧
    decodeWord 0b0100101100011000 = some (.shll8 11) ∧
    decodeWord 0b0100101100011001 = some (.shlr8 11) ∧
    decodeWord 0b0100101100011011 = some (.tasb 11) ∧
    decodeWord 0b0100101100100000 = some (.shal 11) ∧
    decodeWord 0b0100101100100001 = some (.shar 11) ∧
    decodeWord 0b0100101100100100 = some (.rotcl 11) ∧
    decodeWord 0b0100101100100101 = some (.rotcr 11) ∧
    decodeWord 0b0100101100101000 = some (.shll16 11) ∧
    decodeWord 0b0100101100101001 = some (.shlr16 11) ∧
    decodeWord 0b0110101101000111 = some (.notReg 4 11) ∧
    decodeWord 0b1100100010100101 = some (.tstImm 0xA5) ∧
    decodeWord 0b1100100110100101 = some (.andImm 0xA5) ∧
    decodeWord 0b1100101010100101 = some (.xorImm 0xA5) ∧
    decodeWord 0b1100101110100101 = some (.orImm 0xA5) ∧
    decodeWord 0b1100110010100101 = some (.tstbGbr 0xA5) ∧
    decodeWord 0b1100110110100101 = some (.andbGbr 0xA5) ∧
    decodeWord 0b1100111010100101 = some (.xorbGbr 0xA5) ∧
    decodeWord 0b1100111110100101 = some (.orbGbr 0xA5) := by decide

/-- Words that match no row (95_test_vectors.md part 2), near misses among them. -/
theorem test_words_without_instruction :
    ([0x0000, 0x0001, 0x0013, 0x0033, 0x0108, 0x0038, 0x0109, 0x0119, 0x0039, 0x003A, 0x010B, 0x003B, 0x2003, 0x3001,
      0x3009, 0x4030, 0x4014, 0x4035, 0x4036, 0x4037, 0x403B, 0x403E, 0x400C, 0x400D, 0x4039, 0x8200, 0x8300, 0x8600,
      0x8700, 0x8A00, 0x8C00, 0x8E00, 0xF000, 0xFFFF] : List Half).all (fun w => decodeWord w == none) = true := by
  decide

/-- The decoder on bytes: the first byte is the word's high one, what follows is left, and it refuses by name. -/
theorem test_decode_bytes :
    decode [0x31, 0x2C, 0x00, 0x09] = .ok (.addReg 2 1, [0x00, 0x09]) ∧ decode [0x31] = .error .truncated ∧
    decode [0xFF, 0xFF] = .error (.badOpcode 0xFFFF) ∧ decodeTableWord 16 0x8901 = some (.bt 1) := by decide

/-! ### One step: the spec's example of every instruction -/

/-- The examples of R201, R204, R235, R236, R237, R238, R239. -/
theorem test_register_moves :
    leads [.b16 0x06004000 0xE3FE]
      [.r 3 0xFFFFFFFE, .pc 0x06004002, .cycles 1] = true ∧
    leads [.b16 0x06004000 0x6723, .r 2 0xDEADBEEF]
      [.r 7 0xDEADBEEF, .pc 0x06004002, .cycles 1] = true ∧
    leads [.pc 0x06004006, .b16 0x06004006 0xC701]
      [.r 0 0x0600400C, .pc 0x06004008, .cycles 1] = true ∧
    leads [.b16 0x06004000 0x0429, .r 4 0xFFFFFFFF, .t true]
      [.r 4 0x00000001, .pc 0x06004002, .cycles 1] = true ∧
    leads [.b16 0x06004000 0x6218, .r 1 0x12345678]
      [.r 2 0x12347856, .pc 0x06004002, .cycles 1] = true ∧
    leads [.b16 0x06004000 0x6219, .r 1 0x12345678]
      [.r 2 0x56781234, .pc 0x06004002, .cycles 1] = true ∧
    leads [.b16 0x06004000 0x221D, .r 1 0x01234567, .r 2 0x89ABCDEF]
      [.r 2 0x456789AB, .pc 0x06004002, .cycles 1] = true :=
  by decide

/-- The examples of R208, R220, R226, R232. -/
theorem test_byte_loads :
    leads [.b16 0x06004000 0x6120, .r 2 0x06010000, .b8 0x06010000 0x80]
      [.r 1 0xFFFFFF80, .pc 0x06004002, .cycles 1] = true ∧
    leads [.b16 0x06004000 0x8441, .r 4 0x06010000, .b32 0x06010000 0x11F03344]
      [.r 0 0xFFFFFFF0, .pc 0x06004002, .cycles 1] = true ∧
    leads [.b16 0x06004000 0x012C, .r 0 0x00000008, .r 2 0x06010000, .b8 0x06010008 0x9C]
      [.r 1 0xFFFFFF9C, .pc 0x06004002, .cycles 1] = true ∧
    leads [.b16 0x06004000 0xC4FF, .gbr 0x06020000, .b8 0x060200FF 0xFF]
      [.r 0 0xFFFFFFFF, .pc 0x06004002, .cycles 1] = true :=
  by decide

/-- The examples of R202, R209, R221, R227, R233. -/
theorem test_word_loads :
    leads [.b16 0x06004000 0x9103, .b16 0x0600400A 0x8001]
      [.r 1 0xFFFF8001, .pc 0x06004002, .cycles 1] = true ∧
    leads [.b16 0x06004000 0x6121, .r 2 0x06010000, .b16 0x06010000 0x8001]
      [.r 1 0xFFFF8001, .pc 0x06004002, .cycles 1] = true ∧
    leads [.b16 0x06004000 0x8541, .r 4 0x06010000, .b32 0x06010000 0x11223344]
      [.r 0 0x00003344, .pc 0x06004002, .cycles 1] = true ∧
    leads [.b16 0x06004000 0x012D, .r 0 0x00000008, .r 2 0x06010000, .b16 0x06010008 0x7FFF]
      [.r 1 0x00007FFF, .pc 0x06004002, .cycles 1] = true ∧
    leads [.b16 0x06004000 0xC5FF, .gbr 0x06020000, .b16 0x060201FE 0x8000]
      [.r 0 0xFFFF8000, .pc 0x06004002, .cycles 1] = true :=
  by decide

/-- The examples of R203, R210, R222, R228, R234. -/
theorem test_long_loads :
    leads [.pc 0x06004002, .b16 0x06004002 0xD502, .b32 0x0600400C 0x25FE00A4]
      [.r 5 0x25FE00A4, .pc 0x06004004, .cycles 1] = true ∧
    leads [.b16 0x06004000 0x6122, .r 2 0x06010000, .b32 0x06010000 0x89ABCDEF]
      [.r 1 0x89ABCDEF, .pc 0x06004002, .cycles 1] = true ∧
    leads [.b16 0x06004000 0x594F, .r 4 0x06010000, .b32 0x0601003C 0x0BADF00D]
      [.r 9 0x0BADF00D, .pc 0x06004002, .cycles 1] = true ∧
    leads [.b16 0x06004000 0x012E, .r 0 0x00000008, .r 2 0x06010000, .b32 0x06010008 0xFEDCBA98]
      [.r 1 0xFEDCBA98, .pc 0x06004002, .cycles 1] = true ∧
    leads [.b16 0x06004000 0xC6FF, .gbr 0x06020000, .b32 0x060203FC 0x01020304]
      [.r 0 0x01020304, .pc 0x06004002, .cycles 1] = true :=
  by decide

/-- The examples of R214, R215, R216. -/
theorem test_post_increment_loads :
    leads [.b16 0x06004000 0x63F4, .r 15 0x06001FFC, .b8 0x06001FFC 0x7F]
      [.r 3 0x0000007F, .r 15 0x06001FFD, .pc 0x06004002, .cycles 1] = true ∧
    leads [.b16 0x06004000 0x63F5, .r 15 0x06001FFC, .b16 0x06001FFC 0xFFFE]
      [.r 3 0xFFFFFFFE, .r 15 0x06001FFE, .pc 0x06004002, .cycles 1] = true ∧
    leads [.b16 0x06004000 0x63F6, .r 15 0x06001FFC, .b32 0x06001FFC 0x00C0FFEE]
      [.r 3 0x00C0FFEE, .r 15 0x06002000, .pc 0x06004002, .cycles 1] = true :=
  by decide

/-- The examples of R205, R217, R223, R229. -/
theorem test_byte_stores :
    leads [.b16 0x06004000 0x2210, .r 1 0x12345678, .r 2 0x06010000, .b32 0x06010000 0xAAAAAAAA]
      [.b32 0x06010000 0x78AAAAAA, .pc 0x06004002, .cycles 1] = true ∧
    leads [.b16 0x06004000 0x8035, .r 0 0x000000A5, .r 3 0x06010000, .b32 0x06010004 0x00000000]
      [.b32 0x06010004 0x00A50000, .pc 0x06004002, .cycles 1] = true ∧
    leads [.b16 0x06004000 0x0214, .r 0 0xFFFFFFFC, .r 1 0x12345678, .r 2 0x06010004,
        .b32 0x06010000 0xAAAAAAAA]
      [.b32 0x06010000 0x78AAAAAA, .pc 0x06004002, .cycles 1] = true ∧
    leads [.b16 0x06004000 0xC004, .r 0 0x89ABCDEF, .gbr 0x06020000, .b32 0x06020004 0x00000000]
      [.b32 0x06020004 0xEF000000, .pc 0x06004002, .cycles 1] = true :=
  by decide

/-- The examples of R206, R218, R224, R230. -/
theorem test_word_stores :
    leads [.b16 0x06004000 0x2211, .r 1 0x12345678, .r 2 0x06010000, .b32 0x06010000 0xAAAAAAAA]
      [.b32 0x06010000 0x5678AAAA, .pc 0x06004002, .cycles 1] = true ∧
    leads [.b16 0x06004000 0x8133, .r 0 0xFFFF1234, .r 3 0x06010000, .b32 0x06010004 0x00000000]
      [.b32 0x06010004 0x00001234, .pc 0x06004002, .cycles 1] = true ∧
    leads [.b16 0x06004000 0x0215, .r 0 0xFFFFFFFC, .r 1 0x12345678, .r 2 0x06010004,
        .b32 0x06010000 0xAAAAAAAA]
      [.b32 0x06010000 0x5678AAAA, .pc 0x06004002, .cycles 1] = true ∧
    leads [.b16 0x06004000 0xC104, .r 0 0x89ABCDEF, .gbr 0x06020000, .b32 0x06020008 0x00000000]
      [.b32 0x06020008 0xCDEF0000, .pc 0x06004002, .cycles 1] = true :=
  by decide

/-- The examples of R207, R219, R225, R231. -/
theorem test_long_stores :
    leads [.b16 0x06004000 0x2212, .r 1 0x12345678, .r 2 0x06010000, .b32 0x06010000 0xAAAAAAAA]
      [.b32 0x06010000 0x12345678, .pc 0x06004002, .cycles 1] = true ∧
    leads [.b16 0x06004000 0x1312, .r 1 0xCAFEF00D, .r 3 0x06010000, .b32 0x06010008 0x00000000]
      [.b32 0x06010008 0xCAFEF00D, .pc 0x06004002, .cycles 1] = true ∧
    leads [.b16 0x06004000 0x0216, .r 0 0xFFFFFFFC, .r 1 0x12345678, .r 2 0x06010004,
        .b32 0x06010000 0xAAAAAAAA]
      [.b32 0x06010000 0x12345678, .pc 0x06004002, .cycles 1] = true ∧
    leads [.b16 0x06004000 0xC204, .r 0 0x89ABCDEF, .gbr 0x06020000, .b32 0x06020010 0x00000000]
      [.b32 0x06020010 0x89ABCDEF, .pc 0x06004002, .cycles 1] = true :=
  by decide

/-- The examples of R211, R212, R213. -/
theorem test_pre_decrement_stores :
    leads [.b16 0x06004000 0x2F14, .r 1 0x12345678, .r 15 0x06002000, .b32 0x06001FFC 0x00000000]
      [.r 15 0x06001FFF, .b32 0x06001FFC 0x00000078, .pc 0x06004002, .cycles 1] = true ∧
    leads [.b16 0x06004000 0x2F15, .r 1 0x12345678, .r 15 0x06002000, .b32 0x06001FFC 0x00000000]
      [.r 15 0x06001FFE, .b32 0x06001FFC 0x00005678, .pc 0x06004002, .cycles 1] = true ∧
    leads [.b16 0x06004000 0x2F16, .r 1 0x12345678, .r 15 0x06002000, .b32 0x06001FFC 0x00000000]
      [.r 15 0x06001FFC, .b32 0x06001FFC 0x12345678, .pc 0x06004002, .cycles 1] = true :=
  by decide

/-- The examples of R251, R252, R253, R254. -/
theorem test_additions :
    leads [.b16 0x06004000 0x312C, .r 1 0xFFFFFFFF, .r 2 0x00000002, .t false]
      [.r 1 0x00000001, .t false, .pc 0x06004002, .cycles 1] = true ∧
    leads [.b16 0x06004000 0x7FFC, .r 15 0x06002000]
      [.r 15 0x06001FFC, .pc 0x06004002, .cycles 1] = true ∧
    leads [.b16 0x06004000 0x313E, .r 1 0xFFFFFFFF, .r 3 0x00000000, .t true]
      [.r 1 0x00000000, .t true, .pc 0x06004002, .cycles 1] = true ∧
    leads [.b16 0x06004000 0x310F, .r 0 0x00000001, .r 1 0x7FFFFFFF, .t false]
      [.r 1 0x80000000, .t true, .pc 0x06004002, .cycles 1] = true :=
  by decide

/-- The examples of R279, R280, R281, R282, R283. -/
theorem test_subtractions :
    leads [.b16 0x06004000 0x621B, .r 1 0x00000001]
      [.r 2 0xFFFFFFFF, .pc 0x06004002, .cycles 1] = true ∧
    leads [.b16 0x06004000 0x621A, .r 1 0x00000001, .t false]
      [.r 2 0xFFFFFFFF, .t true, .pc 0x06004002, .cycles 1] = true ∧
    leads [.b16 0x06004000 0x3128, .r 1 0x00000000, .r 2 0x00000001]
      [.r 1 0xFFFFFFFF, .pc 0x06004002, .cycles 1] = true ∧
    leads [.b16 0x06004000 0x313A, .r 1 0x00000000, .r 3 0x00000000, .t true]
      [.r 1 0xFFFFFFFF, .t true, .pc 0x06004002, .cycles 1] = true ∧
    leads [.b16 0x06004000 0x310B, .r 0 0x00000001, .r 1 0x80000000, .t false]
      [.r 1 0x7FFFFFFF, .t true, .pc 0x06004002, .cycles 1] = true :=
  by decide

/-- The examples of R255, R256, R257, R258, R259, R260, R261, R262, R263. -/
theorem test_comparisons :
    leads [.b16 0x06004000 0x88FF, .r 0 0xFFFFFFFF, .t false]
      [.t true, .pc 0x06004002, .cycles 1] = true ∧
    leads [.b16 0x06004000 0x3120, .r 1 0x00000005, .r 2 0x00000005, .t false]
      [.t true, .pc 0x06004002, .cycles 1] = true ∧
    leads [.b16 0x06004000 0x3122, .r 1 0x80000000, .r 2 0x00000001, .t false]
      [.t true, .pc 0x06004002, .cycles 1] = true ∧
    leads [.b16 0x06004000 0x3123, .r 1 0x80000000, .r 2 0x00000001, .t true]
      [.t false, .pc 0x06004002, .cycles 1] = true ∧
    leads [.b16 0x06004000 0x3126, .r 1 0x00000007, .r 2 0x00000007, .t true]
      [.t false, .pc 0x06004002, .cycles 1] = true ∧
    leads [.b16 0x06004000 0x3127, .r 1 0x00000001, .r 2 0xFFFFFFFF, .t false]
      [.t true, .pc 0x06004002, .cycles 1] = true ∧
    leads [.b16 0x06004000 0x4415, .r 4 0x00000000, .t true]
      [.t false, .pc 0x06004002, .cycles 1] = true ∧
    leads [.b16 0x06004000 0x4411, .r 4 0x00000000, .t false]
      [.t true, .pc 0x06004002, .cycles 1] = true ∧
    leads [.b16 0x06004000 0x212C, .r 1 0x11223344, .r 2 0xAA22BBCC, .t false]
      [.t true, .pc 0x06004002, .cycles 1] = true :=
  by decide

/-- The examples of R264, R265, R266. -/
theorem test_division_steps :
    leads [.b16 0x06004000 0x3104, .r 0 0x00030000, .r 1 0x0000000A, .q false, .m false, .t false]
      [.r 1 0xFFFD0014, .q true, .t false, .pc 0x06004002, .cycles 1] = true ∧
    leads [.b16 0x06004000 0x2107, .r 0 0x00000003, .r 1 0xFFFFFFF6, .q false, .m false, .t false]
      [.t true, .q true, .m false, .pc 0x06004002, .cycles 1] = true ∧
    leads [.b16 0x06004000 0x0019, .q true, .m true, .t true]
      [.t false, .q false, .m false, .pc 0x06004002, .cycles 1] = true :=
  by decide

/-- The examples of R267, R268, R276, R277, R278. -/
theorem test_multiplies :
    leads [.b16 0x06004000 0x312D, .r 1 0xFFFFFFFE, .r 2 0x00005555]
      [.mach 0xFFFFFFFF, .macl 0xFFFF5556, .pc 0x06004002, .cycles 2] = true ∧
    leads [.b16 0x06004000 0x3125, .r 1 0xFFFFFFFE, .r 2 0x00005555]
      [.mach 0x00005554, .macl 0xFFFF5556, .pc 0x06004002, .cycles 2] = true ∧
    leads [.b16 0x06004000 0x0127, .r 1 0x00010001, .r 2 0x0000FFFF, .mach 0x11111111]
      [.macl 0xFFFFFFFF, .pc 0x06004002, .cycles 2] = true ∧
    leads [.b16 0x06004000 0x212F, .r 1 0x1234FFFE, .r 2 0x00000003]
      [.macl 0xFFFFFFFA, .pc 0x06004002, .cycles 1] = true ∧
    leads [.b16 0x06004000 0x212E, .r 1 0x1234FFFE, .r 2 0x00000003]
      [.macl 0x0002FFFA, .pc 0x06004002, .cycles 1] = true :=
  by decide

/-- The examples of R274, R275. -/
theorem test_multiply_accumulates :
    leads [.b16 0x06004000 0x012F, .r 1 0x06010000, .r 2 0x06010010, .mach 0x00000000, .macl 0x00000005,
        .s false, .b32 0x06010000 0xFFFFFFFD, .b32 0x06010010 0x00000004]
      [.r 1 0x06010004, .r 2 0x06010014, .mach 0xFFFFFFFF, .macl 0xFFFFFFF9, .pc 0x06004002, .cycles 3] = true ∧
    leads [.b16 0x06004000 0x412F, .r 1 0x06010000, .r 2 0x06010010, .mach 0x00000000, .macl 0x7FFFFFF0,
        .s true, .b16 0x06010000 0x0010, .b16 0x06010010 0x0002]
      [.r 1 0x06010002, .r 2 0x06010012, .mach 0x00000001, .macl 0x7FFFFFFF, .pc 0x06004002, .cycles 3] = true :=
  by decide

/-- The examples of R269, R270, R271, R272, R273. -/
theorem test_extensions_and_dt :
    leads [.b16 0x06004000 0x4510, .r 5 0x00000001, .t false]
      [.r 5 0x00000000, .t true, .pc 0x06004002, .cycles 1] = true ∧
    leads [.b16 0x06004000 0x621E, .r 1 0x12345680]
      [.r 2 0xFFFFFF80, .pc 0x06004002, .cycles 1] = true ∧
    leads [.b16 0x06004000 0x621F, .r 1 0x12348000]
      [.r 2 0xFFFF8000, .pc 0x06004002, .cycles 1] = true ∧
    leads [.b16 0x06004000 0x621C, .r 1 0x123456FF]
      [.r 2 0x000000FF, .pc 0x06004002, .cycles 1] = true ∧
    leads [.b16 0x06004000 0x621D, .r 1 0xFFFFFFFF]
      [.r 2 0x0000FFFF, .pc 0x06004002, .cycles 1] = true :=
  by decide

/-- The examples of R291, R292, R294, R295, R296, R299, R300, R302, R303. -/
theorem test_register_logic :
    leads [.b16 0x06004000 0x2129, .r 1 0xF0F0A5A5, .r 2 0x0FF0FFFF]
      [.r 1 0x00F0A5A5, .pc 0x06004002, .cycles 1] = true ∧
    leads [.b16 0x06004000 0xC93C, .r 0 0x123456F0]
      [.r 0 0x00000030, .pc 0x06004002, .cycles 1] = true ∧
    leads [.b16 0x06004000 0x6217, .r 1 0x0000FFFF]
      [.r 2 0xFFFF0000, .pc 0x06004002, .cycles 1] = true ∧
    leads [.b16 0x06004000 0x212B, .r 1 0xF0F0A5A5, .r 2 0x0FF0FFFF]
      [.r 1 0xFFF0FFFF, .pc 0x06004002, .cycles 1] = true ∧
    leads [.b16 0x06004000 0xCB3C, .r 0 0x123456F0]
      [.r 0 0x123456FC, .pc 0x06004002, .cycles 1] = true ∧
    leads [.b16 0x06004000 0x2118, .r 1 0x00000000, .t false]
      [.t true, .pc 0x06004002, .cycles 1] = true ∧
    leads [.b16 0x06004000 0xC880, .r 0 0xFFFFFF7F, .t false]
      [.t true, .pc 0x06004002, .cycles 1] = true ∧
    leads [.b16 0x06004000 0x212A, .r 1 0xF0F0A5A5, .r 2 0x0FF0FFFF]
      [.r 1 0xFF005A5A, .pc 0x06004002, .cycles 1] = true ∧
    leads [.b16 0x06004000 0xCA3C, .r 0 0x123456F0]
      [.r 0 0x123456CC, .pc 0x06004002, .cycles 1] = true :=
  by decide

/-- The examples of R293, R297, R298, R301, R304. -/
theorem test_memory_logic :
    leads [.b16 0x06004000 0xCD0F, .r 0 0x00000002, .gbr 0x06020000, .b32 0x06020000 0x1122C344]
      [.b32 0x06020000 0x11220344, .pc 0x06004002, .cycles 3] = true ∧
    leads [.b16 0x06004000 0xCF0F, .r 0 0x00000002, .gbr 0x06020000, .b32 0x06020000 0x1122C344]
      [.b32 0x06020000 0x1122CF44, .pc 0x06004002, .cycles 3] = true ∧
    leads [.b16 0x06004000 0x441B, .r 4 0x06010003, .t false, .b32 0x06010000 0x11223300]
      [.t true, .b32 0x06010000 0x11223380, .pc 0x06004002, .cycles 4] = true ∧
    leads [.b16 0x06004000 0xCC01, .r 0 0x00000001, .gbr 0x06020000, .t false, .b16 0x06020000 0x00FE]
      [.t true, .pc 0x06004002, .cycles 3] = true ∧
    leads [.b16 0x06004000 0xCE0F, .r 0 0x00000002, .gbr 0x06020000, .b32 0x06020000 0x1122C344]
      [.b32 0x06020000 0x1122CC44, .pc 0x06004002, .cycles 3] = true :=
  by decide

/-- The examples of R305, R306, R307, R308, R309, R310, R311, R312. -/
theorem test_one_bit_shifts :
    leads [.b16 0x06004000 0x4104, .r 1 0x80000001, .t false]
      [.r 1 0x00000003, .t true, .pc 0x06004002, .cycles 1] = true ∧
    leads [.b16 0x06004000 0x4105, .r 1 0x00000001, .t false]
      [.r 1 0x80000000, .t true, .pc 0x06004002, .cycles 1] = true ∧
    leads [.b16 0x06004000 0x4124, .r 1 0x80000000, .t true]
      [.r 1 0x00000001, .t true, .pc 0x06004002, .cycles 1] = true ∧
    leads [.b16 0x06004000 0x4125, .r 1 0x00000001, .t false]
      [.r 1 0x00000000, .t true, .pc 0x06004002, .cycles 1] = true ∧
    leads [.b16 0x06004000 0x4120, .r 1 0xC0000001, .t false]
      [.r 1 0x80000002, .t true, .pc 0x06004002, .cycles 1] = true ∧
    leads [.b16 0x06004000 0x4121, .r 1 0x80000003, .t false]
      [.r 1 0xC0000001, .t true, .pc 0x06004002, .cycles 1] = true ∧
    leads [.b16 0x06004000 0x4100, .r 1 0x40000000, .t true]
      [.r 1 0x80000000, .t false, .pc 0x06004002, .cycles 1] = true ∧
    leads [.b16 0x06004000 0x4101, .r 1 0x80000002, .t true]
      [.r 1 0x40000001, .t false, .pc 0x06004002, .cycles 1] = true :=
  by decide

/-- The examples of R313, R314, R315, R316, R317, R318. -/
theorem test_long_shifts :
    leads [.b16 0x06004000 0x4108, .r 1 0x12345678, .t true]
      [.r 1 0x48D159E0, .t true, .pc 0x06004002, .cycles 1] = true ∧
    leads [.b16 0x06004000 0x4109, .r 1 0x92345678, .t false]
      [.r 1 0x248D159E, .t false, .pc 0x06004002, .cycles 1] = true ∧
    leads [.b16 0x06004000 0x4118, .r 1 0x12345678, .t true]
      [.r 1 0x34567800, .t true, .pc 0x06004002, .cycles 1] = true ∧
    leads [.b16 0x06004000 0x4119, .r 1 0x92345678, .t false]
      [.r 1 0x00923456, .t false, .pc 0x06004002, .cycles 1] = true ∧
    leads [.b16 0x06004000 0x4128, .r 1 0x12345678, .t true]
      [.r 1 0x56780000, .t true, .pc 0x06004002, .cycles 1] = true ∧
    leads [.b16 0x06004000 0x4129, .r 1 0x92345678, .t false]
      [.r 1 0x00009234, .t false, .pc 0x06004002, .cycles 1] = true :=
  by decide

/-- The examples of R331, R332, R333, R334. -/
theorem test_conditional_branches :
    leads [.b16 0x06004000 0x8B02, .t false]
      [.pc 0x06004008, .cycles 3] = true ∧
    leads [.b16 0x06004000 0x8FFC, .b16 0x06004002 0x7101, .r 1 0x00000005, .t false]
      [.r 1 0x00000006, .pc 0x06003FFC, .cycles 3] = true ∧
    leads [.b16 0x06004000 0x8902, .t true]
      [.pc 0x06004008, .cycles 3] = true ∧
    leads [.b16 0x06004000 0x8DFC, .b16 0x06004002 0x7101, .r 1 0x00000005, .t true]
      [.r 1 0x00000006, .pc 0x06003FFC, .cycles 3] = true :=
  by decide

/-- The examples of R335, R336, R339, R341. -/
theorem test_jumps :
    leads [.b16 0x06004000 0xA00E, .b16 0x06004002 0x0009]
      [.pc 0x06004020, .cycles 3] = true ∧
    leads [.b16 0x06004000 0x0323, .b16 0x06004002 0x0009, .r 3 0xFFFFFFF0]
      [.pc 0x06003FF4, .cycles 3] = true ∧
    leads [.b16 0x06004000 0x442B, .b16 0x06004002 0xE17F, .r 1 0x00000000, .r 4 0x06008000]
      [.r 1 0x0000007F, .pc 0x06008000, .cycles 3] = true ∧
    leads [.b16 0x06004000 0x000B, .b16 0x06004002 0x4F26, .r 15 0x06001FFC, .pr 0x06004104,
        .b32 0x06001FFC 0x06000800]
      [.r 15 0x06002000, .pr 0x06000800, .pc 0x06004104, .cycles 3] = true :=
  by decide

/-- The examples of R337, R338, R340. -/
theorem test_calls :
    leads [.b16 0x06004000 0xB07E, .b16 0x06004002 0x0009, .pr 0x00000000]
      [.pr 0x06004004, .pc 0x06004100, .cycles 3] = true ∧
    leads [.b16 0x06004000 0x0303, .b16 0x06004002 0x0009, .r 3 0x00000100, .pr 0x00000000]
      [.pr 0x06004004, .pc 0x06004104, .cycles 3] = true ∧
    leads [.b16 0x06004000 0x440B, .b16 0x06004002 0x0009, .r 4 0x06008000, .pr 0x00000000]
      [.pr 0x06004004, .pc 0x06008000, .cycles 3] = true :=
  by decide

/-- The examples of R351, R352, R365, R367, R368. -/
theorem test_flags_and_idle :
    leads [.b16 0x06004000 0x0008, .t true]
      [.t false, .pc 0x06004002, .cycles 1] = true ∧
    leads [.b16 0x06004000 0x0028, .mach 0x12345678, .macl 0x9ABCDEF0]
      [.mach 0x00000000, .macl 0x00000000, .pc 0x06004002, .cycles 1] = true ∧
    leads [.b16 0x06004000 0x0009]
      [.pc 0x06004002, .cycles 1] = true ∧
    leads [.b16 0x06004000 0x001B]
      [.pc 0x06004002, .cycles 3, .asleep true] = true ∧
    leads [.b16 0x06004000 0x0018, .t false]
      [.t true, .pc 0x06004002, .cycles 1] = true :=
  by decide

/-- The examples of R353, R354, R355, R359, R360, R361. -/
theorem test_loads_of_control_registers :
    leads [.b16 0x06004000 0x410E, .r 1 0xFFFFFFFF, .t false, .s false, .q false, .m false, .i 0x0]
      [.t true, .s true, .q true, .m true, .i 0xF, .pc 0x06004002, .cycles 1] = true ∧
    leads [.b16 0x06004000 0x411E, .r 1 0x25FE0000]
      [.gbr 0x25FE0000, .pc 0x06004002, .cycles 1] = true ∧
    leads [.b16 0x06004000 0x412E, .r 1 0x06000000]
      [.vbr 0x06000000, .pc 0x06004002, .cycles 1] = true ∧
    leads [.b16 0x06004000 0x420A, .r 2 0xFFFF8000]
      [.mach 0xFFFF8000, .pc 0x06004002, .cycles 1] = true ∧
    leads [.b16 0x06004000 0x421A, .r 2 0xFFFF8000]
      [.macl 0xFFFF8000, .pc 0x06004002, .cycles 1] = true ∧
    leads [.b16 0x06004000 0x422A, .r 2 0xFFFF8000]
      [.pr 0xFFFF8000, .pc 0x06004002, .cycles 1] = true :=
  by decide

/-- The examples of R356, R357, R358, R362, R363, R364. -/
theorem test_pops_of_control_registers :
    leads [.b16 0x06004000 0x4F07, .r 15 0x06001FF8, .t false, .i 0x0, .b32 0x06001FF8 0xFFFFFCF1]
      [.r 15 0x06001FFC, .t true, .i 0xF, .pc 0x06004002, .cycles 3] = true ∧
    leads [.b16 0x06004000 0x4F17, .r 15 0x06001FF8, .b32 0x06001FF8 0x06012340]
      [.r 15 0x06001FFC, .gbr 0x06012340, .pc 0x06004002, .cycles 3] = true ∧
    leads [.b16 0x06004000 0x4F27, .r 15 0x06001FF8, .b32 0x06001FF8 0x06012340]
      [.r 15 0x06001FFC, .vbr 0x06012340, .pc 0x06004002, .cycles 3] = true ∧
    leads [.b16 0x06004000 0x4F06, .r 15 0x06001FFC, .b32 0x06001FFC 0x0600ABCD]
      [.r 15 0x06002000, .mach 0x0600ABCD, .pc 0x06004002, .cycles 1] = true ∧
    leads [.b16 0x06004000 0x4F16, .r 15 0x06001FFC, .b32 0x06001FFC 0x0600ABCD]
      [.r 15 0x06002000, .macl 0x0600ABCD, .pc 0x06004002, .cycles 1] = true ∧
    leads [.b16 0x06004000 0x4F26, .r 15 0x06001FFC, .b32 0x06001FFC 0x0600ABCC]
      [.r 15 0x06002000, .pr 0x0600ABCC, .pc 0x06004002, .cycles 1] = true :=
  by decide

/-- The examples of R369, R370, R371, R375, R376, R377. -/
theorem test_reads_of_control_registers :
    leads [.b16 0x06004000 0x0302, .r 3 0xFFFFFFFF, .t true, .s false, .q true, .m false, .i 0xF]
      [.r 3 0x000001F1, .pc 0x06004002, .cycles 1] = true ∧
    leads [.b16 0x06004000 0x0312, .gbr 0x25FE0000]
      [.r 3 0x25FE0000, .pc 0x06004002, .cycles 1] = true ∧
    leads [.b16 0x06004000 0x0322, .vbr 0x06000400]
      [.r 3 0x06000400, .pc 0x06004002, .cycles 1] = true ∧
    leads [.b16 0x06004000 0x000A, .mach 0x8000ABCD]
      [.r 0 0x8000ABCD, .pc 0x06004002, .cycles 1] = true ∧
    leads [.b16 0x06004000 0x001A, .macl 0x8000ABCD]
      [.r 0 0x8000ABCD, .pc 0x06004002, .cycles 1] = true ∧
    leads [.b16 0x06004000 0x002A, .pr 0x06004104]
      [.r 0 0x06004104, .pc 0x06004002, .cycles 1] = true :=
  by decide

/-- The examples of R372, R373, R374, R378, R379, R380. -/
theorem test_pushes_of_control_registers :
    leads [.b16 0x06004000 0x4F03, .r 15 0x06002000, .t true, .s true, .q false, .m true, .i 0x5]
      [.r 15 0x06001FFC, .b32 0x06001FFC 0x00000253, .pc 0x06004002, .cycles 2] = true ∧
    leads [.b16 0x06004000 0x4F13, .r 15 0x06002000, .gbr 0x25FE0000]
      [.r 15 0x06001FFC, .b32 0x06001FFC 0x25FE0000, .pc 0x06004002, .cycles 2] = true ∧
    leads [.b16 0x06004000 0x4F23, .r 15 0x06002000, .vbr 0x06000400]
      [.r 15 0x06001FFC, .b32 0x06001FFC 0x06000400, .pc 0x06004002, .cycles 2] = true ∧
    leads [.b16 0x06004000 0x4F02, .r 15 0x06002000, .mach 0x8000ABCD]
      [.r 15 0x06001FFC, .b32 0x06001FFC 0x8000ABCD, .pc 0x06004002, .cycles 1] = true ∧
    leads [.b16 0x06004000 0x4F12, .r 15 0x06002000, .macl 0x8000ABCD]
      [.r 15 0x06001FFC, .b32 0x06001FFC 0x8000ABCD, .pc 0x06004002, .cycles 1] = true ∧
    leads [.b16 0x06004000 0x4F22, .r 15 0x06002000, .pr 0x06004104]
      [.r 15 0x06001FFC, .b32 0x06001FFC 0x06004104, .pc 0x06004002, .cycles 1] = true :=
  by decide

/-- The examples of R366, R381. -/
theorem test_trap_and_return :
    leads [.b16 0x06004000 0xC320, .r 15 0x06002000, .vbr 0x06000000, .t true, .i 0x0,
        .b32 0x06000080 0x06009000]
      [.r 15 0x06001FF8, .b32 0x06001FFC 0x00000001, .b32 0x06001FF8 0x06004002, .pc 0x06009000, .cycles 8] = true ∧
    leads [.b16 0x06004000 0x002B, .b16 0x06004002 0x0009, .r 15 0x06001FF8, .t false, .i 0xF,
        .b32 0x06001FF8 0x06005000, .b32 0x06001FFC 0x00000001]
      [.r 15 0x06002000, .t true, .i 0x0, .pc 0x06005000, .cycles 5] = true :=
  by decide

/-! ### One step: slots, stops, interrupts, devices (95_test_vectors.md parts 3, 4 and 8) -/

/-- D1 to D13: each of the thirteen in the slot of `BRA +4` halts, with nothing changed. -/
theorem test_illegal_slots :
    ([0x0123, 0x0103, 0x000B, 0x002B, 0x410B, 0x412B, 0x8902, 0x8B02, 0x8D02, 0x8F02, 0xA002, 0xB002,
      0xC320] : List Half).all (fun w =>
        halts [.b16 0x06004000 0xA002, .b16 0x06004002 w, .r 1 0x06005000, .r 15 0x06002000, .pr 0x06006000, .t true,
            .vbr 0x06000000] .illegalSlotInstruction w 0x06004002
          [.pc 0x06004000, .pr 0x06006000, .r 15 0x06002000, .t true]) = true := by decide

/-- D15 and D23: what a branch wrote before its slot stays, the call's `PR` and the popped stack. -/
theorem test_captured_before_the_slot :
    halts [.b32 0x06004000 0xB002000B, .pr 0x06006000] .illegalSlotInstruction 0x000B 0x06004002
      [.pc 0x06004000, .pr 0x06004004] = true ∧
    halts [.b32 0x06004000 0x002B000B, .r 15 0x06002000, .b32 0x06002000 0x06007000, .b32 0x06002004 0x000000F1]
      .illegalSlotInstruction 0x000B 0x06004002 [.pc 0x06004000, .r 15 0x06002008, .t true, .i 15] = true := by decide

/-- D24: while the power-on quirk holds, `RTS` runs in the slot of `BRA +4` with the `NOP` after it in its own. -/
theorem test_power_on_quirk :
    leads [.quirk true, .b32 0x06004000 0xA002000B, .b16 0x06004004 0x0009, .pr 0x06006000]
      [.pc 0x06004008, .cycles 5, .quirk false] = true := by decide

/-- D25 and D27: the target is captured before the slot, and the slot sees the new `PR`. -/
theorem test_slot_order :
    leads [.b32 0x06004000 0x412B7104, .r 1 0x06005000] [.pc 0x06005000, .r 1 0x06005004, .cycles 3] = true ∧
    leads [.b32 0x06004000 0xB002022A] [.pc 0x06004008, .r 2 0x06004004, .pr 0x06004004, .cycles 3] = true := by decide

/-- D28 to D31: the other stops of a slot. -/
theorem test_slot_stops :
    faults [.b32 0x06004000 0xA002D100] (.pcRelativeInSlot 0x06004002) = true ∧
    faults [.b32 0x06004000 0xA002C700] (.pcRelativeInSlot 0x06004002) = true ∧
    halts [.b32 0x06004000 0xA002FFFF] .badOpcode 0xFFFF 0x06004002 [.pc 0x06004002] = true ∧
    faults [.b32 0x06004000 0xA0026212, .r 1 0x06005002] (.misalignedAccess 0x06005002 4) = true := by decide

/-- V14, V15, V20, V50 and R91: accesses and fetches at wrong addresses. -/
theorem test_misaligned :
    faults [.b16 0x06004000 0x2211, .r 2 0x06010001] (.misalignedAccess 0x06010001 2) = true ∧
    faults [.b16 0x06004000 0x2212, .r 2 0x06010002] (.misalignedAccess 0x06010002 4) = true ∧
    faults [.b16 0x06004000 0x6211, .r 1 0x06010001] (.misalignedAccess 0x06010001 2) = true ∧
    faults [.b16 0x06004000 0xC501, .gbr 0x06010001] (.misalignedAccess 0x06010003 2) = true ∧
    faults [.pc 0x06004001] (.misalignedFetch 0x06004001) = true := by decide

/-- S12 (2): the entry of the level-0 DMA end, in place of the instruction at the pc. -/
theorem test_interrupt_entry :
    leads [.pc 0x06004010, .t true, .r 15 0x06002000, .vbr 0x06000000, .b32 0x0600012C 0x06008000,
        .pending [.scu .level0DmaEnd], .flags [5]]
      [.pc 0x06008000, .t true, .i 5, .r 15 0x06001FF8, .pending [], .current (some (.scu .level0DmaEnd)), .flags [5],
        .b32 0x06001FFC 0x00000001, .b32 0x06001FF8 0x06004010, .cycles 8] = true := by decide

/-- S12 (5): the `RTE` of its handler, two more pending. -/
theorem test_interrupt_return :
    leads [.pc 0x06008002, .b32 0x06008002 0x002B0009, .r 15 0x06001FF8, .b32 0x06001FF8 0x06004010,
        .b32 0x06001FFC 0x00000001, .pending [.scu .vBlankIn, .scu .vBlankOut], .current (some (.scu .level0DmaEnd)),
        .flags [5, 14, 15]]
      [.pc 0x06004010, .t true, .r 15 0x06002000, .current none, .pending [.scu .vBlankIn, .scu .vBlankOut],
        .flags [14, 15]] = true := by decide

/-- S13: the NMI wakes a sleeper whose mask is 15 and leaves the mask at 15. -/
theorem test_nmi :
    leads [.pc 0x06004012, .i 15, .r 15 0x06002000, .asleep true, .pending [.scu .vBlankIn, .nmi], .flags [15, 16],
        .b32 0x2C 0x06008300]
      [.pc 0x06008300, .i 15, .asleep false, .pending [.scu .vBlankIn], .current (some .nmi),
        .b32 0x06001FF8 0x06004012] = true := by decide

/-- S12 (1) and (3): raising a source sets its IST bit always, and sends it only where it is unmasked and its level's
flag is clear. -/
theorem test_scu_raise :
    leads [.ims 0xB7FC, .due [.scuRaise .level0DmaEnd]]
      [.ist 0x00000800, .pending [.scu .level0DmaEnd], .flags [5], .due []] = true ∧
    leads [.ims 0xB7FC, .ist 0x00000800, .flags [5], .due [.scuRaise .level0DmaEnd]]
      [.ist 0x00000800, .pending [], .flags [5]] = true ∧
    leads [.ims 0xBFFF, .due [.scuRaise .vBlankIn]] [.ist 0x00000001, .pending [], .flags []] = true := by decide

/-- A direct transfer of four bytes from the last store of a program (as in S1): `MOV.L R2,@(16,R1)` writes D0EN. -/
theorem test_direct_transfer :
    (match step { start [.b16 0x06004000 0x1124, .r 1 0x25FE0000, .r 2 0x00000101, .b32 0x06010000 0xC0C1C2C3,
        .ims 0xB7FF] with
        scu := { Scu.reset with
          ims := 0xB7FF
          channels := Scu.reset.channels.set 0 ⟨0x06010000, 0x05C00000, 4, 0x101, 0, 0x00010107⟩ } } with
      | .next t => t.mem.read32 0x05C00000 == 0xC0C1C2C3 && t.scu.ist == 0x00000800 &&
          t.cpu.pending == [.scu .level0DmaEnd] && t.scu.queue == [] &&
          t.scu.channel 0 == ⟨0x06010004, 0x05C00004, 4, 0x101, 1, 0x00010107⟩
      | _ => false) = true := by decide

/-- S8: `MOV.W R0,@(14,R1)` writes 0 to CR4 with 0 in CR1, the command `get_status`. -/
theorem test_cd_get_status :
    (match step { start [.b16 0x06004000 0x811E, .r 1 0x25890008] with
        cd := { Cd.reset Params.default with cr1 := 0, hirq := 0x0002, driveStatus := 0x01 } } with
      | .next t => t.cd.hirq == 0x0003 && t.cd.cr1 == 0x0100 && t.cd.cr2 == 0x4101 && t.cd.cr3 == 0x0100 &&
          t.cd.cr4 == 0x0096 && t.cd.executedCommands == 1
      | _ => false) = true := by decide

/-- S11: the same store right after reset, before CR4 has been read, executes `get_status` from the signature's CR1. -/
theorem test_cd_command_before_handshake :
    (match step { start [.b16 0x06004000 0x811E, .r 1 0x25890008] with cd := Cd.reset Params.default } with
      | .next t => t.cd.hirq == 0x0003 && t.cd.cr1 == 0x0700 && t.cd.cr2 == 0x4101 && t.cd.cr3 == 0x0100 &&
          t.cd.cr4 == 0x0096 && t.cd.executedCommands == 1 && !t.cd.initializationDone &&
          !t.cd.commandBeingInitialized
      | _ => false) = true := by decide

/-- U17's reading of the same store, with the parameter that takes it: CR4 is stored and no command runs. -/
theorem test_cd_command_ignored :
    (match step { start [.b16 0x06004000 0x811E, .r 1 0x25890008] with
        cd := Cd.reset Params.default, config := { Params.default with cdEarlyCommand := .ignored } } with
      | .next t => t.cd == { Cd.reset Params.default with cr4 := 0 }
      | _ => false) = true := by decide

/-- The bit-field vectors F2, F3, F4, F16 and F20 of 95_test_vectors.md. -/
theorem test_bit_fields :
    BitRange.set ⟨4, 11, by decide, by decide⟩ 0xABCD#16 0x5A = 0xA5AD ∧
    BitRange.set ⟨4, 11, by decide, by decide⟩ 0xABCD#16 0x15A = 0xA5AD ∧
    BitRange.reset ⟨4, 11, by decide, by decide⟩ 0xABCD#16 = 0xA00D ∧
    BitRange.set ⟨2, 5, by decide, by decide⟩ 0xFF#8 0 = 0xC3 ∧
    BitRange.get ⟨0, 26, by decide, by decide⟩ 0x86010010#32 = 0x6010010 := by decide

/-! ### Witnesses: states and operands that meet the hypotheses of the statements, clause by clause -/

/-- A state for the loads and stores: R1, GBR and `pc + 4` are one address, and R0 is 0. -/
def atOneAddress : State :=
  start [.r 1 0x06004004, .gbr 0x06004004, .b32 0x06004004 0x80010203]

/-- A state with values in every register that the arithmetic reads. -/
def withValues : State :=
  start [.r 0 0xF1F2F3F4, .r 1 0x80000001, .r 2 0xFFFF7FFF, .t true, .q true, .mach 0x00007FFF, .macl 0xFFFFFFF0]

theorem witness_decode_and_encode_agree :
    decodeWord 0x0002 = some (.stcSr 0) ∧ decodeWord 0xEFFF = some (.movImm 0xFF 15) := by decide

theorem witness_step_runs_decoded_instruction :
    (start [.b16 0x06004000 0x312C]).hostInputs = [] ∧ (start [.b16 0x06004000 0x312C]).emulationStopped = false ∧
    (start [.b16 0x06004000 0x312C]).cpu.acceptable = none ∧ (start [.b16 0x06004000 0x312C]).cpu.sleeping = false ∧
    (start [.b16 0x06004000 0x312C]).cpu.pc.toNat % 2 = 0 ∧
    memRead16 0x06004000 (start [.b16 0x06004000 0x312C]) = .next (0x312C, start [.b16 0x06004000 0x312C]) ∧
    decodeWord 0x312C = some (.addReg 2 1) :=
  ⟨rfl, rfl, rfl, rfl, rfl, rfl, rfl⟩

/-- Each clause in a state of its own: stopped, asleep, at an odd address, before a word without instruction. -/
theorem witness_step_without_instruction :
    ({ start [] with emulationStopped := true } : State).emulationStopped = true ∧
    ({ start [] with emulationStopped := true } : State).hostInputs = [] ∧
    (start [.asleep true]).hostInputs = [] ∧ (start [.asleep true]).emulationStopped = false ∧
    (start [.asleep true]).cpu.acceptable = none ∧ (start [.asleep true]).cpu.sleeping = true ∧
    (start [.pc 0x06004001]).hostInputs = [] ∧ (start [.pc 0x06004001]).emulationStopped = false ∧
    (start [.pc 0x06004001]).cpu.acceptable = none ∧ (start [.pc 0x06004001]).cpu.sleeping = false ∧
    (start [.pc 0x06004001]).cpu.pc.toNat % 2 = 1 ∧ (start [.b16 0x06004000 0xFFFF]).hostInputs = [] ∧
    (start [.b16 0x06004000 0xFFFF]).emulationStopped = false ∧
    (start [.b16 0x06004000 0xFFFF]).cpu.acceptable = none ∧ (start [.b16 0x06004000 0xFFFF]).cpu.sleeping = false ∧
    plainHalf (start [.b16 0x06004000 0xFFFF]) (start [.b16 0x06004000 0xFFFF]).cpu.pc = some 0xFFFF ∧
    decodeWord 0xFFFF = none := by decide

/-- All fourteen clauses in one state. -/
theorem witness_loads :
    plainByte atOneAddress (atOneAddress.cpu.r.get 1) = some 0x80 ∧
    plainByte atOneAddress (atOneAddress.cpu.r.get 1 + (0 : BitVec 4).setWidth 32) = some 0x80 ∧
    plainByte atOneAddress (atOneAddress.cpu.r.get 1 + atOneAddress.cpu.r.get 0) = some 0x80 ∧
    plainByte atOneAddress (atOneAddress.cpu.gbr + (0 : Byte).setWidth 32) = some 0x80 ∧
    plainHalf atOneAddress (atOneAddress.cpu.r.get 1) = some 0x8001 ∧
    plainHalf atOneAddress (atOneAddress.cpu.r.get 1 + (zext (0 : BitVec 4) <<< 1)) = some 0x8001 ∧
    plainHalf atOneAddress (atOneAddress.cpu.r.get 1 + atOneAddress.cpu.r.get 0) = some 0x8001 ∧
    plainHalf atOneAddress (atOneAddress.cpu.gbr + (zext (0 : Byte) <<< 1)) = some 0x8001 ∧
    plainHalf atOneAddress (atOneAddress.cpu.pc + (4 : Word) + (zext (0 : Byte) <<< 1)) = some 0x8001 ∧
    plainLong atOneAddress (atOneAddress.cpu.r.get 1) = some 0x80010203 ∧
    plainLong atOneAddress (atOneAddress.cpu.r.get 1 + (zext (0 : BitVec 4) <<< 2)) = some 0x80010203 ∧
    plainLong atOneAddress (atOneAddress.cpu.r.get 1 + atOneAddress.cpu.r.get 0) = some 0x80010203 ∧
    plainLong atOneAddress (atOneAddress.cpu.gbr + (zext (0 : Byte) <<< 2)) = some 0x80010203 ∧
    plainLong atOneAddress (((atOneAddress.cpu.pc + 4) >>> 2 <<< 2) + (zext (0 : Byte) <<< 2)) = some 0x80010203 := by
  decide

/-- Boundary addresses: the last of work RAM, the first unmapped one after it, boot ROM, and the greatest
displacements. -/
theorem witness_loads_at_boundaries :
    plainByte (start []) 0x060FFFFF = some 0 ∧ plainHalf (start []) 0x060FFFFE = some 0 ∧
    plainLong (start []) 0x060FFFFC = some 0 ∧ plainLong (start []) 0x06100000 = some 0 ∧
    plainLong (start []) 0x00000000 = some 0 ∧
    plainLong atOneAddress (atOneAddress.cpu.r.get 1 + (zext (15 : BitVec 4) <<< 2)) = some 0 ∧
    plainLong atOneAddress (atOneAddress.cpu.gbr + (zext (255 : Byte) <<< 2)) = some 0 ∧
    plainLong (start [.pc 0x06004002])
      ((((start [.pc 0x06004002]).cpu.pc + 4) >>> 2 <<< 2) + (zext (255 : Byte) <<< 2)) = some 0 := by decide

theorem witness_post_increment_loads :
    plainByte atOneAddress (atOneAddress.cpu.r.get 1) = some 0x80 ∧
    plainHalf atOneAddress (atOneAddress.cpu.r.get 1) = some 0x8001 ∧
    plainLong atOneAddress (atOneAddress.cpu.r.get 1) = some 0x80010203 := by decide

/-- All twelve clauses in one state, at a multiple of 4. -/
theorem witness_stores :
    plainPlace atOneAddress 0x06004004 = true ∧ (0x06004004 : Word) = atOneAddress.cpu.r.get 1 ∧
    (0x06004004 : Word) = atOneAddress.cpu.r.get 1 + (0 : BitVec 4).setWidth 32 ∧
    (0x06004004 : Word) = atOneAddress.cpu.r.get 1 + atOneAddress.cpu.r.get 0 ∧
    (0x06004004 : Word) = atOneAddress.cpu.gbr + (0 : Byte).setWidth 32 ∧
    (0x06004004 : Word) = atOneAddress.cpu.r.get 1 + (zext (0 : BitVec 4) <<< 1) ∧
    (0x06004004 : Word) = atOneAddress.cpu.gbr + (zext (0 : Byte) <<< 1) ∧
    (0x06004004 : Word) = atOneAddress.cpu.r.get 1 + (zext (0 : BitVec 4) <<< 2) ∧
    (0x06004004 : Word) = atOneAddress.cpu.gbr + (zext (0 : Byte) <<< 2) ∧
    (0x06004004 : Word).toNat % 2 = 0 ∧ (0x06004004 : Word).toNat % 4 = 0 := by decide

/-- Boundary addresses of the stores: the last byte, word and longword of work RAM, boot ROM, unmapped. -/
theorem witness_stores_at_boundaries :
    plainPlace (start []) 0x060FFFFF = true ∧ plainPlace (start []) 0x060FFFFE = true ∧
    plainPlace (start []) 0x060FFFFC = true ∧ plainPlace (start []) 0x000FFFFC = true ∧
    plainPlace (start []) 0x06100000 = true := by decide

/-- Each clause in a state of its own, the last with an address that wraps into the unmapped space 110. -/
theorem witness_pre_decrement_stores :
    plainPlace atOneAddress 0x06004003 = true ∧ (0x06004003 : Word) = atOneAddress.cpu.r.get 1 - 1 ∧
    plainPlace atOneAddress 0x06004002 = true ∧ (0x06004002 : Word) = atOneAddress.cpu.r.get 1 - 2 ∧
    (0x06004002 : Word).toNat % 2 = 0 ∧ plainPlace atOneAddress 0x06004000 = true ∧
    (0x06004000 : Word) = atOneAddress.cpu.r.get 1 - 4 ∧ (0x06004000 : Word).toNat % 4 = 0 ∧
    plainPlace (start [.r 1 0xE0000000]) 0xDFFFFFFC = true ∧
    (0xDFFFFFFC : Word) = (start [.r 1 0xE0000000]).cpu.r.get 1 - 4 := by decide

/-- A state whose R1, GBR and R2 lead to the device registers of the next theorem. -/
def atDevices : State := start [.r 1 0x05890008, .r 2 0x25FE00A4, .gbr 0x25FE0000, .r 3 0xFFFFFE10]

/-- One form of each of the six clauses: loads of an on-chip latch, of CR4 and of IST, and stores to the same. -/
theorem witness_accesses_follow_the_bus :
    ((.movbLoad 3 4, 0xFFFFFE10, 4) : Instr × Word × Reg) ∈
      ([(.movbLoad 3 4, atDevices.cpu.r.get 3, 4), (.movbLoadDisp 0 3, atDevices.cpu.r.get 3 + zext (0 : BitVec 4), 0),
       (.movbLoadIdx 3 4, atDevices.cpu.r.get 3 + atDevices.cpu.r.get 0, 4),
       (.movbLoadGbr 0, atDevices.cpu.gbr + zext (0 : Byte), 0)] : List (Instr × Word × Reg)) ∧
    ((.movwLoadDisp 14 1, 0x05890024, 0) : Instr × Word × Reg) ∈
      ([(.movwLoad 1 4, atDevices.cpu.r.get 1, 4),
       (.movwLoadDisp 14 1, atDevices.cpu.r.get 1 + (zext (14 : BitVec 4) <<< 1), 0),
       (.movwLoadIdx 1 4, atDevices.cpu.r.get 1 + atDevices.cpu.r.get 0, 4),
       (.movwLoadGbr 0, atDevices.cpu.gbr + (zext (0 : Byte) <<< 1), 0)] : List (Instr × Word × Reg)) ∧
    ((.movlLoadGbr 41, 0x25FE00A4, 0) : Instr × Word × Reg) ∈
      ([(.movlLoad 1 4, atDevices.cpu.r.get 1, 4),
       (.movlLoadDisp 0 1 4, atDevices.cpu.r.get 1 + (zext (0 : BitVec 4) <<< 2), 4),
       (.movlLoadIdx 1 4, atDevices.cpu.r.get 1 + atDevices.cpu.r.get 0, 4),
       (.movlLoadGbr 41, atDevices.cpu.gbr + (zext (41 : Byte) <<< 2), 0)] : List (Instr × Word × Reg)) ∧
    ((.movbStoreIdx 4 3, 0xFFFFFE10, 0) : Instr × Word × Word) ∈
      ([(.movbStore 4 3, atDevices.cpu.r.get 3, atDevices.cpu.r.get 4),
       (.movbStoreDisp 0 3, atDevices.cpu.r.get 3 + zext (0 : BitVec 4), atDevices.cpu.r.get 0),
       (.movbStoreIdx 4 3, atDevices.cpu.r.get 3 + atDevices.cpu.r.get 0, atDevices.cpu.r.get 4),
       (.movbStoreGbr 0, atDevices.cpu.gbr + zext (0 : Byte), atDevices.cpu.r.get 0)] : List (Instr × Word × Word)) ∧
    ((.movwStoreDisp 14 1, 0x05890024, 0) : Instr × Word × Word) ∈
      ([(.movwStore 4 1, atDevices.cpu.r.get 1, atDevices.cpu.r.get 4),
       (.movwStoreDisp 14 1, atDevices.cpu.r.get 1 + (zext (14 : BitVec 4) <<< 1), atDevices.cpu.r.get 0),
       (.movwStoreIdx 4 1, atDevices.cpu.r.get 1 + atDevices.cpu.r.get 0, atDevices.cpu.r.get 4),
       (.movwStoreGbr 0, atDevices.cpu.gbr + (zext (0 : Byte) <<< 1), atDevices.cpu.r.get 0)] :
        List (Instr × Word × Word)) ∧
    ((.movlStore 4 2, 0x25FE00A4, 0) : Instr × Word × Word) ∈
      ([(.movlStore 4 2, atDevices.cpu.r.get 2, atDevices.cpu.r.get 4),
       (.movlStoreDisp 4 0 2, atDevices.cpu.r.get 2 + (zext (0 : BitVec 4) <<< 2), atDevices.cpu.r.get 4),
       (.movlStoreIdx 4 2, atDevices.cpu.r.get 2 + atDevices.cpu.r.get 0, atDevices.cpu.r.get 4),
       (.movlStoreGbr 0, atDevices.cpu.gbr + (zext (0 : Byte) <<< 2), atDevices.cpu.r.get 0)] :
        List (Instr × Word × Word)) := by decide

/-- Each clause, at the least and the greatest wrong remainder. -/
theorem witness_misaligned_accesses_fault :
    ((start [.r 1 0x06010001]).cpu.r.get 1).toNat % 2 = 1 ∧ ((start [.r 1 0x06010001]).cpu.r.get 1).toNat % 4 ≠ 0 ∧
    ((start [.r 1 0x06010003]).cpu.r.get 1).toNat % 4 ≠ 0 ∧
    (0x06010003 : Word) = (start [.r 0 2, .r 1 0x06010001]).cpu.r.get 1 +
      (start [.r 0 2, .r 1 0x06010001]).cpu.r.get 0 ∧
    (0x06010003 : Word).toNat % 2 = 1 ∧ (0x06010003 : Word).toNat % 4 ≠ 0 ∧
    (start [.gbr 0x06010001]).cpu.gbr.toNat % 2 = 1 ∧ (start [.gbr 0x06010002]).cpu.gbr.toNat % 4 ≠ 0 ∧
    ((start [.r 15 0x06002002]).cpu.r.get 15).toNat % 4 ≠ 0 := by decide

theorem witness_additions_and_subtractions :
    0x80000001 = withValues.cpu.r.get 1 ∧ 0xFFFF7FFF = withValues.cpu.r.get 2 ∧
    (1 : Word) = (if withValues.cpu.sr.t then 1 else 0) := by decide

theorem witness_comparisons : 0x80000001 = withValues.cpu.r.get 1 ∧ 0xFFFF7FFF = withValues.cpu.r.get 2 := by decide

theorem witness_multiplies : 0x80000001 = withValues.cpu.r.get 1 ∧ 0xFFFF7FFF = withValues.cpu.r.get 2 := by decide

theorem witness_extensions_and_decrement : 0x80000001 = withValues.cpu.r.get 1 := by decide

theorem witness_register_logic :
    0x80000001 = withValues.cpu.r.get 1 ∧ 0xFFFF7FFF = withValues.cpu.r.get 2 ∧
    0xF1F2F3F4 = withValues.cpu.r.get 0 := by decide

theorem witness_rotates_and_shifts :
    0x80000001 = withValues.cpu.r.get 1 ∧ (1 : Word) = (if withValues.cpu.sr.t then 1 else 0) := by decide

theorem witness_division_steps :
    0x80000001 = withValues.cpu.r.get 1 ∧ 0xFFFF7FFF = withValues.cpu.r.get 2 ∧
    (0x00000003 : BitVec 33) = (((0x80000001 : Word) <<< 1) ||| (if withValues.cpu.sr.t then 1 else 0)).setWidth 33 ∧
    (0x0FFFF8002 : BitVec 33) = (if withValues.cpu.sr.q = withValues.cpu.sr.m
      then (0x00000003 : BitVec 33) - (0xFFFF7FFF : Word).setWidth 33
      else (0x00000003 : BitVec 33) + (0xFFFF7FFF : Word).setWidth 33) ∧
    true = (((0x80000001 : Word).msb ^^ withValues.cpu.sr.m) ^^ (0x0FFFF8002 : BitVec 33).getLsbD 32) := by decide

/-- One register as both pointers, an accumulator near the 48-bit bound, and S as given. -/
def longwords (saturate : Bool) : State :=
  start [.r 1 0x06010000, .b32 0x06010000 0x7FFFFFFF, .b32 0x06010004 2, .mach 0x00007FFF, .macl 0xFFFFFFF0,
    .s saturate]

/-- Both clauses of S. -/
theorem witness_multiply_accumulate_longwords :
    ∀ b, (0x00007FFFFFFFFFF0 : BitVec 64) = (longwords b).cpu.mach ++ (longwords b).cpu.macl ∧
      plainLong (longwords b) ((longwords b).cpu.r.get 1) = some 0x7FFFFFFF ∧
      (0x06010004 : Word) = (if (1 : Reg) = 1 then (longwords b).cpu.r.get 1 + 4 else (longwords b).cpu.r.get 1) ∧
      plainLong (longwords b) 0x06010004 = some 2 ∧ (longwords b).cpu.sr.s = b ∧
      (longwords b).config.maclSat = .clamp48 ∧
      { (longwords b).config with maclSat := .other }.maclSat = .other := by decide

/-- Words 1 at R1 and `k` at R2, an accumulator, and S set. -/
def words (macl : Word) (k : Half) : State :=
  start [.r 1 0x06010000, .r 2 0x06010010, .b16 0x06010000 1, .b16 0x06010010 k, .macl macl, .s true]

/-- The clauses of S: clear; set with the least sum that saturates above, the greatest that saturates below, and both
bounds reached without saturation. -/
theorem witness_multiply_accumulate_words :
    (∀ x ∈ ([(0x7FFFFFFF, 1, 2147483648), (0x7FFFFFFE, 1, 2147483647), (0x80000000, 0xFFFF, -2147483649),
        (0x80000001, 0xFFFF, -2147483648)] : List (Word × Half × Int)),
      plainHalf (words x.1 x.2.1) ((words x.1 x.2.1).cpu.r.get 1) = some 1 ∧
      (0x06010010 : Word) = (if (2 : Reg) = 1 then (words x.1 x.2.1).cpu.r.get 1 + 2
        else (words x.1 x.2.1).cpu.r.get 2) ∧
      plainHalf (words x.1 x.2.1) 0x06010010 = some x.2.1 ∧
      x.2.2 = (words x.1 x.2.1).cpu.macl.toInt + (1 : Half).toInt * x.2.1.toInt ∧
      (1 : Word) = (if (words x.1 x.2.1).config.macwSatSetsMachLsb then (words x.1 x.2.1).cpu.mach ||| 1
        else (words x.1 x.2.1).cpu.mach) ∧
      (words x.1 x.2.1).cpu.sr.s = true) ∧
    plainHalf (Item.put (.s false) (words 5 1)) ((Item.put (.s false) (words 5 1)).cpu.r.get 1) = some 1 ∧
    plainHalf (Item.put (.s false) (words 5 1)) 0x06010010 = some 1 ∧
    (Item.put (.s false) (words 5 1)).cpu.sr.s = false := by
  simp only [List.forall_mem_cons, List.not_mem_nil, false_imp_iff, forall_const]
  decide

/-- The four sums above against the bounds of the statement. -/
theorem witness_multiply_accumulate_words_bounds :
    (2 : Int) ^ 31 ≤ 2147483648 ∧ (2147483647 : Int) < 2 ^ 31 ∧ -2147483649 < -(2 : Int) ^ 31 ∧
    -(2 : Int) ^ 31 ≤ -2147483648 := by norm_num

theorem witness_memory_logic :
    (0x06010003 : Word) = (start [.r 0 3, .r 4 0x06010003, .gbr 0x06010000, .b8 0x06010003 0xA5]).cpu.gbr +
      (start [.r 0 3, .r 4 0x06010003, .gbr 0x06010000, .b8 0x06010003 0xA5]).cpu.r.get 0 ∧
    plainByte (start [.r 0 3, .r 4 0x06010003, .gbr 0x06010000, .b8 0x06010003 0xA5]) 0x06010003 = some 0xA5 ∧
    (0x06010003 : Word) = (start [.r 0 3, .r 4 0x06010003, .gbr 0x06010000, .b8 0x06010003 0xA5]).cpu.r.get 4 := by
  decide

theorem witness_control_register_moves :
    0x80000001 = withValues.cpu.r.get 1 ∧
    (0x00000101 : Word) = ((if withValues.cpu.sr.m then 1#32 else 0) <<< 9) |||
      ((if withValues.cpu.sr.q then 1#32 else 0) <<< 8) ||| (zext withValues.cpu.sr.i <<< 4) |||
      ((if withValues.cpu.sr.s then 1#32 else 0) <<< 1) ||| (if withValues.cpu.sr.t then 1#32 else 0) := by decide

theorem witness_control_register_pops :
    plainLong atOneAddress (atOneAddress.cpu.r.get 1) = some 0x80010203 ∧
    plainLong (start [.r 15 0x060FFFFC]) ((start [.r 15 0x060FFFFC]).cpu.r.get 15) = some 0 := by decide

theorem witness_control_register_pushes :
    (0x06001FFC : Word) = (start [.r 15 0x06002000]).cpu.r.get 15 - 4 ∧ (0x06001FFC : Word).toNat % 4 = 0 ∧
    plainPlace (start [.r 15 0x06002000]) 0x06001FFC = true := by decide

/-- The stack and the vectors in work RAM, and one interrupt pending. -/
def framed : State := start [.r 15 0x06002000, .vbr 0x06000000, .pending [.scu .level0DmaEnd], .flags [5]]

/-- The least and the greatest vector of TRAPA. -/
theorem witness_trapa_builds_the_frame :
    framed.cpu.vbr.toNat % 4 = 0 ∧ (framed.cpu.r.get 15).toNat % 4 = 0 ∧
    framed.place (framed.cpu.r.get 15 - 4) = .storage 0x06001FFC true ∧
    framed.place (framed.cpu.r.get 15 - 8) = .storage 0x06001FF8 true ∧
    framed.place (framed.cpu.vbr + (zext (0x00 : Byte) <<< 2)) = .storage 0x06000000 true ∧
    framed.place (framed.cpu.vbr + (zext (0xFF : Byte) <<< 2)) = .storage 0x060003FC true := by decide

theorem witness_conditional_branches_without_slot :
    (0x06003F04 : Word) = (start [.t true]).cpu.pc + (4 : Word) + (sext (0x80 : Byte) <<< 1) ∧
    (start [.t true]).cpu.sr.t = true ∧
    (0x06004102 : Word) = (start []).cpu.pc + (4 : Word) + (sext (0x7F : Byte) <<< 1) ∧
    (start []).cpu.sr.t = false := by decide

theorem witness_delayed_branches_over_nop :
    ∀ b, (0x06004000 : Word) = (start [.b16 0x06004002 0x0009, .t b]).cpu.pc ∧ (0x06004000 : Word).toNat % 2 = 0 ∧
      plainHalf (start [.b16 0x06004002 0x0009, .t b]) (0x06004000 + 2) = some 0x0009 ∧
      (start [.b16 0x06004002 0x0009, .t b]).cpu.sr.t = b := by decide

/-- `STS PR,R2` in a slot at `0x06004002`. -/
def slotted (t : Bool) : State := start [.b16 0x06004002 0x022A, .t t]

/-- Under both values of T: with it set `BT/S` and the seven others are covered, with it clear `BF/S`. -/
theorem witness_delayed_branch_runs_its_slot (b : Bool) :
    TakesSlot (slotted b) .rts (slotted b).cpu (slotted b).cpu.pr ((slotted b).cost .jump) ∧
    (slotted b).cpu.pc.toNat % 2 = 0 ∧ plainHalf (slotted b) ((slotted b).cpu.pc + 2) = some 0x022A ∧
    decodeWord 0x022A = some (.stsPr 2) ∧ (Instr.stsPr 2).legalInSlot = true ∧ (slotted b).cpu.sr.t = b ∧
    (∃ u, exec (.stsPr 2) ((slotted b).mapCpu fun _ => { (slotted b).cpu with pc := (slotted b).cpu.pc + 2 }) =
      .next u) ∧
    (∃ u, exec (.stsPr 2) ((slotted b).mapCpu fun _ =>
      { (slotted b).cpu with pr := (slotted b).cpu.pc + 4, pc := (slotted b).cpu.pc + 2 }) = .next u) := by
  refine ⟨.rts, ?_⟩
  cases b <;> exact ⟨rfl, rfl, rfl, rfl, rfl, ⟨_, rfl⟩, ⟨_, rfl⟩⟩

/-- An exception frame at R15, and the interrupt in service. -/
def returning (d : Option Interrupt) : State :=
  start [.b16 0x06004002 0x0009, .r 15 0x06001FF8, .b32 0x06001FF8 0x06005000, .b32 0x06001FFC 0x000003F3, .current d]

/-- With an interrupt in service and with none. -/
theorem witness_rte_over_nop :
    ∀ d ∈ [none, some Interrupt.nmi], (returning d).cpu.pc.toNat % 2 = 0 ∧
      plainHalf (returning d) ((returning d).cpu.pc + 2) = some 0x0009 ∧
      plainLong (returning d) ((returning d).cpu.r.get 15) = some 0x06005000 ∧
      plainLong (returning d) ((returning d).cpu.r.get 15 + 4) = some 0x000003F3 ∧
      (returning d).cpu.current = d := by
  simp only [List.forall_mem_cons, List.not_mem_nil, false_imp_iff, forall_const]
  decide

/-- An exception frame at R15 and this word in the slot. -/
def returningOver (w : Half) (quirk : Bool) : State :=
  start [.b16 0x06004002 w, .r 15 0x06001FF8, .b32 0x06001FF8 0x06005000, .b32 0x06001FFC 0x000003F3, .quirk quirk]

/-- The CPU that `RTE` gives to its slot in those states. -/
def returned (w : Half) (quirk : Bool) : Cpu :=
  { (returningOver w quirk).cpu with
    r := (returningOver w quirk).cpu.r.set 15 0x06002000, sr := ⟨true, true, 15, true, true⟩ }

/-- `RTE` over `MOVT R2`, which reads the T that `RTE` has restored. -/
theorem witness_delayed_branch_runs_its_slot_of_rte :
    TakesSlot (returningOver 0x0229 false) .rte (returned 0x0229 false) 0x06005000 4 ∧
    (returningOver 0x0229 false).cpu.pc.toNat % 2 = 0 ∧
    plainHalf (returningOver 0x0229 false) ((returningOver 0x0229 false).cpu.pc + 2) = some 0x0229 ∧
    decodeWord 0x0229 = some (.movt 2) ∧ (Instr.movt 2).legalInSlot = true ∧
    ∃ u, exec (.movt 2) ((returningOver 0x0229 false).mapCpu fun _ =>
      { returned 0x0229 false with pc := (returningOver 0x0229 false).cpu.pc + 2 }) = .next u :=
  ⟨.rte 0x06005000 0x000003F3 ⟨true, true, 15, true, true⟩ (by decide) (by decide) (by decide), by decide, by decide,
    by decide, by decide, ⟨_, rfl⟩⟩

theorem witness_illegal_slot_halts :
    ∀ b, TakesSlot (start [.b16 0x06004002 0xC320, .t b]) (.jsr 1)
        { (start [.b16 0x06004002 0xC320, .t b]).cpu with pr := (start [.b16 0x06004002 0xC320, .t b]).cpu.pc + 4 }
        ((start [.b16 0x06004002 0xC320, .t b]).cpu.r.get 1) ((start [.b16 0x06004002 0xC320, .t b]).cost .jump) ∧
      (start [.b16 0x06004002 0xC320, .t b]).cpu.pc.toNat % 2 = 0 ∧
      (start [.b16 0x06004002 0xC320, .t b]).cpu.porSlotQuirk = false ∧
      plainHalf (start [.b16 0x06004002 0xC320, .t b]) ((start [.b16 0x06004002 0xC320, .t b]).cpu.pc + 2) =
        some 0xC320 ∧
      (decodeWord 0xC320).any Instr.isIllegalInSlot = true ∧ (start [.b16 0x06004002 0xC320, .t b]).cpu.sr.t = b :=
  fun b => ⟨.jsr 1, by revert b; decide⟩

/-- `RTE` over `BRA`. -/
theorem witness_illegal_slot_halts_of_rte :
    TakesSlot (returningOver 0xA000 false) .rte (returned 0xA000 false) 0x06005000 4 ∧
    (returningOver 0xA000 false).cpu.pc.toNat % 2 = 0 ∧ (returningOver 0xA000 false).cpu.porSlotQuirk = false ∧
    plainHalf (returningOver 0xA000 false) ((returningOver 0xA000 false).cpu.pc + 2) = some 0xA000 ∧
    (decodeWord 0xA000).any Instr.isIllegalInSlot = true :=
  ⟨.rte 0x06005000 0x000003F3 ⟨true, true, 15, true, true⟩ (by decide) (by decide) (by decide), by decide⟩

/-- Each clause in a state of its own, under `RTE`: no instruction, `MOVA`, and `BT` with the quirk set. -/
theorem witness_other_slots :
    (∀ w ∈ [0xFFFF, 0xC700, 0x8902], TakesSlot (returningOver w true) .rte (returned w true) 0x06005000 4 ∧
      (returningOver w true).cpu.pc.toNat % 2 = 0 ∧
      plainHalf (returningOver w true) ((returningOver w true).cpu.pc + 2) = some w) ∧
    decodeWord 0xFFFF = none ∧ decodeWord 0xC700 = some (.mova 0) ∧ (Instr.mova 0).isPcRelative = true ∧
    decodeWord 0x8902 = some (.bt 2) ∧ (returningOver 0x8902 true).cpu.porSlotQuirk = true ∧
    ∃ u, exec (.bt 2) ((returningOver 0x8902 true).mapCpu fun _ =>
      { returned 0x8902 true with pc := (returningOver 0x8902 true).cpu.pc + 2 }) = .next u := by
  refine ⟨?_, by decide, by decide, by decide, by decide, by decide, ⟨_, rfl⟩⟩
  simp only [List.forall_mem_cons, List.not_mem_nil, false_imp_iff, forall_const, and_true]
  refine ⟨⟨?_, by decide⟩, ⟨?_, by decide⟩, ⟨?_, by decide⟩⟩ <;>
  exact .rte 0x06005000 0x000003F3 ⟨true, true, 15, true, true⟩ (by decide) (by decide) (by decide)

theorem witness_acceptance_test :
    ((start [.pending [.scu .level0DmaEnd, .nmi]]).cpu.pending.map Interrupt.level).Nodup ∧
    (start [.pending [.scu .level0DmaEnd, .nmi]]).cpu.acceptable = some .nmi := by decide

/-- Level 5 with its vector at `VBR + 0x12C`; and the NMI's level 16 against a mask of 15. -/
theorem witness_interrupt_entry :
    framed.hostInputs = [] ∧ framed.emulationStopped = false ∧ framed.cpu.acceptable = some (.scu .level0DmaEnd) ∧
    framed.cpu.vbr.toNat % 4 = 0 ∧ (framed.cpu.r.get 15).toNat % 4 = 0 ∧
    framed.place (framed.cpu.r.get 15 - 4) = .storage 0x06001FFC true ∧
    framed.place (framed.cpu.r.get 15 - 8) = .storage 0x06001FF8 true ∧
    framed.place (framed.cpu.vbr + (zext (Interrupt.scu .level0DmaEnd).vector <<< 2)) = .storage 0x0600012C true ∧
    [] = framed.cpu.pending.erase (.scu .level0DmaEnd) ∧
    (start [.i 15, .pending [.nmi], .flags [16]]).cpu.acceptable = some .nmi := by decide

/-- Each clause: a level-0 descriptor, a level whose flag is set, and levels whose flag is clear, 16 and 1. -/
theorem witness_send_interrupt :
    (start [.due [.sendInterrupt .slave (.host 0x40 0)]]).hostInputs = .sendInterrupt .slave (.host 0x40 0) :: [] ∧
    (start [.due [.sendInterrupt .slave (.host 0x40 0)]]).emulationStopped = false ∧
    (Interrupt.host 0x40 0).level = 0 ∧
    (start [.flags [16], .due [.sendInterrupt .master .nmi]]).hostInputs = .sendInterrupt .master .nmi :: [] ∧
    ((start [.flags [16], .due [.sendInterrupt .master .nmi]]).cpuOf .master).levelFlag Interrupt.nmi.level = true ∧
    ((start [.due [.sendInterrupt .master .nmi]]).cpuOf .master).levelFlag Interrupt.nmi.level = false ∧
    Interrupt.nmi.level ≠ 0 ∧ (Interrupt.host 0x40 1).level ≠ 0 ∧
    ((start [.due [.sendInterrupt .slave (.host 0x40 1)]]).cpuOf .slave).levelFlag 1 = false := by decide

/-- A masked and an unmasked source. -/
theorem witness_scu_raise :
    (start [.ims 0xBFFF]).scu.ims.getLsbD ScuSource.vBlankIn.maskBit = true ∧
    (start [.ims 0xBFFE]).scu.ims.getLsbD ScuSource.vBlankIn.maskBit = false ∧
    (start [.ims 0x3FFF]).scu.ims.getLsbD (ScuSource.external 15).maskBit = false := by decide

/-- R544 in a form that evaluates. -/
theorem consistent_of_parts (c : Cpu) (x : Option Interrupt) (hc : c.current = x)
    (distinct : (c.pending.map Interrupt.level).Nodup) (positive : ∀ d ∈ c.pending, d.level ≠ 0)
    (flags : ∀ l, c.levelFlag l = true ↔ (∃ d ∈ c.pending, d.level = l) ∨ ∃ d ∈ x, d.level = l)
    (apart : ∀ d ∈ x, ∀ e ∈ c.pending, e.level ≠ d.level) : c.interruptsConsistent := by
  subst hc
  exact ⟨distinct, positive, flags, fun d e hd he => apart d hd e he⟩

/-- A state with two pending interrupts and one in service. -/
def busy : State :=
  start [.b16 0x06004000 0x0009, .pending [.scu .vBlankIn, .scu .vBlankOut], .current (some (.scu .level0DmaEnd)),
    .flags [5, 14, 15]]

theorem witness_interrupt_invariant_kept : busy.interruptsConsistent ∧ ∃ t, step busy = .next t :=
  ⟨⟨consistent_of_parts _ (some (.scu .level0DmaEnd)) rfl (by decide) (by decide) (by decide) (by decide),
    consistent_of_parts _ none rfl (by decide) (by decide) (by decide) (by decide)⟩, ⟨_, rfl⟩⟩

theorem witness_memory_invariant_kept :
    (start [.b32 0x06004000 0x2F160009, .r 1 0xABCD0123, .r 15 0x06002000]).memoryCanonical ∧
    ∃ t, step (start [.b32 0x06004000 0x2F160009, .r 1 0xABCD0123, .r 15 0x06002000]) = .next t :=
  ⟨⟨by decide, by decide, by decide⟩, ⟨_, rfl⟩⟩

theorem witness_canonical_memory_is_unique :
    (Memory.write ⟨[(1, 2), (5, 6)]⟩ 3 4).wf = true ∧ (Memory.mk [(1, 2), (3, 4), (5, 6)]).wf = true ∧
    (∀ q, (Memory.write ⟨[(1, 2), (5, 6)]⟩ 3 4).read q = (Memory.mk [(1, 2), (3, 4), (5, 6)]).read q) :=
  ⟨by decide, by decide, fun _ => rfl⟩

theorem witness_mixed_width_is_big_endian :
    (0x060FFFFC : Word).toNat % 4 = 0 ∧ (start []).place 0x060FFFFC = .storage 0x060FFFFC true ∧
    (start []).place (0x060FFFFC + 1) = .storage (0x060FFFFC + 1) true ∧
    (start []).place (0x060FFFFC + 2) = .storage (0x060FFFFC + 2) true := by decide

/-- Each clause: the first unmapped address, the last of ROM, the first and the last SCU register, both ends of the CD
block's. -/
theorem witness_unmapped_rom_and_device_widths :
    (start []).place 0x06100000 = .unmapped ∧ (0x06100000 : Word).toNat % 4 = 0 ∧
    (start []).place 0x000FFFFC = .storage 0x000FFFFC false ∧ (start []).place 0x25FE0000 = .scu 0 ∧
    (start []).place 0x25FE00C8 = .scu 0xC8 ∧ (start []).place 0x25890008 = .cdBlock 0x90008 ∧
    (start []).place 0x25890024 = .cdBlock 0x90024 ∧ (0x25890024 : Word).toNat % 4 = 0 := by decide

/-- The ends of every range, and the default map. -/
theorem witness_address_map :
    (0x00000000 : Word).toNat < 0x20000000 ∧ (0x1FFFFFFF : Word).toNat < 0x20000000 ∧
    0x40000000 ≤ (0x40000000 : Word).toNat ∧ (0xDFFFFFFF : Word).toNat < 0xE0000000 ∧
    0xFFFFFE00 ≤ (0xFFFFFE00 : Word).toNat ∧ 0xFFFFFE00 ≤ (0xFFFFFFFF : Word).toNat ∧
    (start []).config.memMap = defaultMemMap ∧
    (0x000FFFFF : Word).toNat < 0x00100000 ∧ 0x00200000 ≤ (0x00200000 : Word).toNat ∧
    (0x002FFFFF : Word).toNat < 0x00300000 ∧ 0x06000000 ≤ (0x06000000 : Word).toNat ∧
    (0x060FFFFF : Word).toNat < 0x06100000 ∧ 0x05800000 ≤ (0x05800000 : Word).toNat ∧
    (0x058FFFFF : Word).toNat < 0x05900000 ∧ 0x05FE0000 ≤ (0x05FE0000 : Word).toNat ∧
    (0x05FE00CF : Word).toNat < 0x05FE00D0 ∧ 0x06100000 ≤ (0x06100000 : Word).toNat ∧
    (0x07FFFFFF : Word).toNat < 0x08000000 := by decide

theorem witness_reserved_bits_kept_clear :
    (start [.b16 0x06004000 0x0009]).reservedClear ∧ ∃ t, step (start [.b16 0x06004000 0x0009]) = .next t :=
  ⟨⟨fun level => by unfold DmaChannel.reservedClear; revert level; decide, by decide, by decide,
    by unfold Intc.reservedClear; decide, by unfold Intc.reservedClear; decide, by decide⟩, ⟨_, rfl⟩⟩

/-- The first and the last offset of each clause; the enable clause with bit 8 clear. -/
theorem witness_scu_register_masks :
    (start []).place 0x25FE0000 = .scu 0x00 ∧ (start []).place 0x25FE0008 = .scu 0x08 ∧
    (start []).place 0x25FE0010 = .scu 0x10 ∧ (0x00000001 : Word).getLsbD 8 = false ∧
    (start []).place 0x25FE00A0 = .scu 0xA0 ∧ (start []).place 0x25FE00A4 = .scu 0xA4 ∧
    (start []).place 0x25FE0060 = .scu 0x60 ∧ (start []).place 0x25FE00C8 = .scu 0xC8 ∧
    (start []).place 0x25FE0018 = .scu 0x18 ∧ (start []).place 0x25FE00C0 = .scu 0xC0 ∧
    (0x25FE0000 : Word).toNat % 4 = 0 ∧
    (∀ l, (fun l : Fin 3 => if l = 0 then 0x000FFFFF else 0x00000FFF) l =
      BitVec.ofNat 32 (2 ^ (start []).config.dmaCountBits.at l - 1)) := by decide

/-- The bytes beside the registers, the ends of the block, and aligned places of each width. -/
theorem witness_interrupt_controller_latches :
    ((0xFFFFFEE0 : Word), (0x0101 : Half)) ∈ intcHalves ∧ 0xFFFFFFA8 ∈ intcWords ∧
    onChipLatch 0xFFFFFE5F = true ∧ onChipLatch 0xFFFFFE6A = true ∧ onChipLatch 0xFFFFFE60 = false ∧
    onChipLatch 0xFFFFFFFF = true ∧ onChipLatch 0xFFFFFE00 = true ∧ onChipLatch 0xFFFFFE01 = true ∧
    (∀ k < 4, onChipLatch (0xFFFFFFFC + BitVec.ofNat 32 k) = true) ∧
    (0xFFFFFE00 : Word).toNat % 2 = 0 ∧ (0xFFFFFFFC : Word).toNat % 4 = 0 := by decide

/-- A DMA configuration that waits for a factor, at a level. -/
def waiting (level : Fin 3) : DmaConfig :=
  ⟨level, .waitingStartFactor, 0x06010000, 0x05C00000, 4, 4, 2, true, false, .direct, .hold, .hold, 0⟩

/-- Level 1 is set up for V-blank-in while entries of levels 0, 1 and 2 wait. -/
def enabling : State :=
  { start [] with
    scu := { Scu.reset with
      channels := Scu.reset.channels.set 1 ⟨0x06010000, 0x05C00000, 4, 0x101, 0, 0⟩
      queue := [waiting 0, waiting 1, waiting 2] } }

/-- An entry that waits is at the head of the queue, and one for the DMA-start factor finds the queue empty. -/
theorem witness_enable_write_queues :
    (0x00000100 : Word).getLsbD 8 = true ∧
    (⟨0x06010000, 0x05C00000, 4, 0x101, 0, 0⟩ : DmaChannel) = enabling.scu.channel 1 ∧
    enabling.scu.queue = [waiting 0, waiting 1] ++ [waiting 2] ∧ (∀ e ∈ [waiting 0, waiting 1], e.level ≤ 1) ∧
    (∀ e ∈ [waiting 2], 1 < e.level) ∧
    (∀ cfg : DmaConfig, ∀ e ∈ ([waiting 0, waiting 1] ++ cfg :: [waiting 2]).head?, e.status ≠ .queued) ∧
    DmaChannel.reset = (start []).scu.channel 0 ∧ DmaChannel.reset.mode.toNat % 8 = 7 ∧
    (start []).scu.queue = [] ++ [] :=
  ⟨by decide, by decide, rfl, by decide, by decide,
    fun _ _ he => by simp only [List.cons_append, List.head?_cons, Option.mem_some_iff] at he; subst he; decide,
    by decide, by decide, rfl⟩

/-- A queued direct transfer of four bytes, the last of work RAM, to VDP1's memory. -/
def fourBytes : DmaConfig :=
  ⟨1, .queued, 0x060FFFFC, 0x05C00000, 4, 4, 2, true, true, .direct, .update, .update, 7⟩

/-- The transfer is the queue's head, and an entry that waits stands behind it. -/
def copying : State := { start [] with scu := { Scu.reset with queue := [fourBytes, waiting 2] } }

/-- `DmaAnswers.of_storage` for four bytes, in a form that evaluates. -/
theorem answers_of_four {s : State} {cfg : DmaConfig} {r w : Word}
    (hr : ∀ k, k < 4 → (s.place (dmaReadAt cfg r k) matches .storage _ _) = true)
    (hw : ∀ k, k < 4 → (s.place (dmaWriteAt s cfg w k) matches .storage _ _) = true) : DmaAnswers s cfg r w 4 := by
  refine DmaAnswers.of_storage (fun k hk => ?_) (fun k hk => ?_)
  · have h := hr k hk
    split at h
    · exact ⟨_, _, by assumption⟩
    · cases h
  · have h := hw k hk
    split at h
    · exact ⟨_, _, by assumption⟩
    · cases h

theorem witness_direct_transfer_copies :
    (∀ e ∈ (start []).scu.queue.head?, e.status ≠ .queued) ∧
    copying.scu.queue = fourBytes :: [waiting 2] ∧ fourBytes.status = .queued ∧ fourBytes.dmaMode = .direct ∧
    (∃ u, executeDma fourBytes { copying with scu := { copying.scu with queue := [waiting 2] } } = .next u) ∧
    getDmaBus copying.config.rangeMode fourBytes.writeAddress ≠ .unknownBus ∧
    4 = (if fourBytes.transferByteNumber = 0 then copying.config.dmaZeroCount else fourBytes.transferByteNumber.toNat) ∧
    DmaAnswers copying fourBytes fourBytes.readAddress fourBytes.writeAddress 4 ∧
    (0x06100000 : Word) = (if fourBytes.readAddressUpdate = .hold then (copying.scu.channel fourBytes.level).readAddr
      else dmaReadAt fourBytes fourBytes.readAddress ((4 + 3) / 4 * 4) &&& 0x07FFFFFF) ∧
    (0x05C00004 : Word) = (if fourBytes.writeAddressUpdate = .hold then (copying.scu.channel fourBytes.level).writeAddr
      else dmaWriteAt copying fourBytes fourBytes.writeAddress 4 &&& 0x07FFFFFF) ∧
    (∀ e ∈ [waiting 2].head?, e.status ≠ .queued) :=
  ⟨by decide, rfl, rfl, rfl, ⟨_, rfl⟩, by decide, by decide, answers_of_four (by decide) (by decide), by decide,
    by decide, by decide⟩

/-- The corrected mode with words 16 bytes apart, and a source that overlaps its destination. -/
def corrected : State := { copying with config := { Params.default with writeAddMode := .corrected } }

theorem witness_direct_transfer_copies_in_the_corrected_mode :
    DmaAnswers corrected { fourBytes with writeAddValue := 16 } 0x05C00000 0x05C00001 4 ∧
    dmaWriteAt corrected { fourBytes with writeAddValue := 16 } 0x05C00000 3 = 0x05C00011 ∧
    dmaReadAt { fourBytes with readAddValue := 0 } 0x058FFFFC 5 = 0x058FFFFD :=
  ⟨answers_of_four (by decide) (by decide), by decide, by decide⟩

/-- The count of zero: the whole of work RAM high to A-bus CS0 (property 5). -/
theorem witness_direct_transfer_copies_of_a_mebibyte :
    0x100000 = (if (0 : BitVec 20) = 0 then (start []).config.dmaZeroCount else (0 : BitVec 20).toNat) ∧
    DmaAnswers (start []) fourBytes 0x06000000 0x02000000 0x100000 := by
  have low : ∀ n k : Nat, n + k < 0x08000000 → (BitVec.ofNat 32 n + BitVec.ofNat 32 k).toNat = n + k := by
    intro n k h
    rw [← BitVec.ofNat_add, BitVec.toNat_ofNat, Nat.mod_eq_of_lt (by omega)]
  have ram : ∀ (n k : Nat) (r : Region), n + k < 0x08000000 → findRegion defaultMemMap (n + k) = some r →
      r.kind = .ram → (start []).place (BitVec.ofNat 32 n + BitVec.ofNat 32 k) = .storage (n + k) true := by
    intro n k r h hr hk
    show resolve Params.default _ = _
    rw [resolve_low _ _ (by rw [low n k h]; exact h), low n k h, physicalPlace,
      show findRegion Params.default.memMap (n + k) = some r from hr]
    simp only [hk]
  refine ⟨rfl, DmaAnswers.of_storage (fun k hk => ⟨_, _, ram 0x06000000 k ⟨0x06000000, 0x060FFFFF, .ram⟩ (by omega) ?_ rfl⟩)
    (fun k hk => ⟨_, _, ram 0x02000000 k ⟨0x02000000, 0x03FFFFFF, .ram⟩ (by omega) ?_ rfl⟩)⟩ <;>
  · unfold findRegion defaultMemMap
    simp (disch := (simp only [Bool.and_eq_true, decide_eq_true_eq]; omega)) only
      [List.find?_cons_of_neg, List.find?_cons_of_pos]

/-- A table of two descriptors at `0x06020000`: one byte from `0x06010000` to `0x05C00000`, then one from there to
`0x05C00001`, with the end code. -/
def described : State :=
  start [.b8 0x06010000 0x5A, .b32 0x06020000 1, .b32 0x06020004 0x05C00000, .b32 0x06020008 0x06010000,
    .b32 0x0602000C 1, .b32 0x06020010 0x05C00001, .b32 0x06020014 0x85C00000]

/-- The configuration that points to it. -/
def indirect : DmaConfig := { fourBytes with dmaMode := .indirect, writeAddress := 0x06020000 }

/-- The state with one byte of storage written. -/
def State.poke (s : State) (p : Nat) (v : Byte) : State := { s with mem := s.mem.write p v }

/-- A descriptor of one byte, of storage to storage, moves that byte. -/
theorem moved_one {s : State} {p raw dst : Word} {a b : Nat} (hl : plainLong s p = some 1)
    (hd : plainLong s (p + 4) = some dst) (hr : plainLong s (p + 8) = some raw)
    (hb : getDmaBus s.config.rangeMode (dst &&& 0x07FFFFFF) ≠ .unknownBus)
    (ha : s.place (dmaReadAt indirect (raw &&& 0x07FFFFFF) 0) = .storage a true)
    (hw : s.place (dmaWriteAt s indirect (dst &&& 0x07FFFFFF) 0) = .storage b true) :
    DescriptorMoved indirect p raw s (State.poke s b (s.mem.read a)) := by
  refine ⟨1, dst, _, 1, hl, hd, hr, rfl, by rw [if_neg hb]; rfl, DmaAnswers.of_storage ?_ ?_, fun q => ?_, rfl⟩
  · intro k hk; obtain rfl : k = 0 := by omega
    exact ⟨_, _, ha⟩
  · intro k hk; obtain rfl : k = 0 := by omega
    exact ⟨_, _, hw⟩
  · simp only [State.poke, Memory.read_write, dmaContent, byteIn, ha, hw, Place.storage.injEq, and_true, eq_comm]

/-- The chain of both descriptors, and the second alone. -/
theorem witness_indirect_transfer_follows_its_chain :
    indirect.dmaMode = .indirect ∧
    DmaChain indirect 2 described indirect.writeAddress
      (State.poke (State.poke described 0x05C00000 0x5A) 0x05C00001 0x5A) 0x0602000C ∧ 2 ≤ 2 ^ 30 ∧
    DmaChain indirect 1 described 0x0602000C (State.poke described 0x05C00001 0) 0x0602000C ∧
    (0x0602000C : Word) = (if indirect.writeAddressUpdate = .hold then (described.scu.channel indirect.level).writeAddr
      else (0x0602000C : Word) &&& 0x07FFFFFF) :=
  ⟨rfl,
    .more (moved_one (dst := 0x05C00000) (raw := 0x06010000) (a := 0x06010000) (by decide) (by decide) (by decide)
        (by decide) (by decide) (by decide)) (by decide)
      (.last (moved_one (dst := 0x05C00001) (raw := 0x85C00000) (a := 0x05C00000) (by decide) (by decide) (by decide)
        (by decide) (by decide) (by decide)) (by decide)),
    by decide,
    .last (moved_one (dst := 0x05C00001) (raw := 0x85C00000) (a := 0x05C00000) (by decide) (by decide) (by decide)
      (by decide) (by decide) (by decide)) (by decide),
    by decide⟩

/-- V-blank-in is due while one entry waits for it and one for another factor. -/
def released : State :=
  { start [.due [.startFactor .vBlankIn]] with
    scu := { Scu.reset with queue := [waiting 0, { waiting 1 with startingFactorSelect := 6 }] } }

/-- The first entry is released; and where only the second stands in the queue, its head stays waiting. -/
theorem witness_start_event_releases :
    released.hostInputs = .startFactor .vBlankIn :: [] ∧ released.emulationStopped = false ∧
    [{ waiting 0 with status := .queued }, { waiting 1 with startingFactorSelect := 6 }].length =
      released.scu.queue.length ∧
    (∀ p ∈ released.scu.queue.zip
        [{ waiting 0 with status := .queued }, { waiting 1 with startingFactorSelect := 6 }],
      p.2 = if p.1.status = .waitingStartFactor ∧ p.1.startingFactorSelect = 0 then { p.1 with status := .queued }
        else p.1) ∧
    (∀ c ∈ [{ waiting 1 with startingFactorSelect := 6 }].head?, c.status ≠ .queued) := by decide

/-- A table of one descriptor that names an unknown bus. -/
def skipping : State := start [.b32 0x06020000 4, .b32 0x06020004 0x00200000, .b32 0x06020008 0x86010000]

/-- The ends of the ranges under both settings, and transfers to an unknown bus, direct and indirect. -/
theorem witness_dma_buses :
    0x05FFFFFF = ((0x25FFFFFF : Word) &&& 0x0FFFFFFF).toNat ∧
    0x05FFFFFF = (if RangeMode.sourceRanges = .sourceRanges then 0x05FFFFFF else 0x05FDFFFF) ∧
    0x05FDFFFF = (if RangeMode.officialMap = .sourceRanges then 0x05FFFFFF else 0x05FDFFFF) ∧
    { fourBytes with writeAddress := 0x00200000 }.dmaMode = .direct ∧
    getDmaBus (start []).config.rangeMode { fourBytes with writeAddress := 0x00200000 }.writeAddress = .unknownBus ∧
    getDmaBus .sourceRanges 0x05900000 = .unknownBus ∧
    indirect.dmaMode = .indirect ∧ plainLong skipping indirect.writeAddress = some 4 ∧
    plainLong skipping (indirect.writeAddress + 4) = some 0x00200000 ∧
    plainLong skipping (indirect.writeAddress + 8) = some 0x86010000 ∧
    (0x86010000 : Word) &&& skipping.config.dmaEndCode ≠ 0 ∧
    getDmaBus skipping.config.rangeMode ((0x00200000 : Word) &&& 0x07FFFFFF) = .unknownBus := by decide

theorem witness_queue_invariant_kept :
    ({ start [.b16 0x06004000 0x0009] with
      scu := { Scu.reset with queue := [waiting 0, waiting 0, waiting 2] } } : State).queueOrdered ∧
    ∃ t, step { start [.b16 0x06004000 0x0009] with
      scu := { Scu.reset with queue := [waiting 0, waiting 0, waiting 2] } } = .next t :=
  ⟨⟨by decide, by decide⟩, ⟨_, rfl⟩⟩

/-- The command registers hold this CR1 after this many commands. -/
def commanded (cr1 : Half) (executed : Nat) : State :=
  { start [] with cd := { Cd.reset Params.default with cr1 := cr1, executedCommands := executed } }

/-- The other reading of a command before the handshake. -/
def deaf : State := { commanded 0x0043 0 with config := { Params.default with cdEarlyCommand := .ignored } }

/-- Each command code and one that is not implemented, at the limit of one command and beyond it; before the handshake in
both readings. -/
theorem witness_cd_commands :
    ([0x0043, 0x01FF, 0x0600, 0x67FF, 0x7500, 0xE100, 0x0200] : List Half).all (fun cr1 => [0, 1].all fun n =>
      (commanded cr1 n).place 0x25890024 == .cdBlock 0x90024 && (commanded cr1 n).cd.cr1 == cr1) = true ∧
    (0x25890024 : Word).toNat % 2 = 0 ∧
    ([0x0043, 0x01FF, 0x0600, 0x67FF, 0x7500, 0xE100] : List Half).map (fun cr1 => cr1.extractLsb' 8 8) =
      [0x00, 0x01, 0x06, 0x67, 0x75, 0xE1] ∧
    (0x0200 : Half).extractLsb' 8 8 ∉ ([0x00, 0x01, 0x06, 0x67, 0x75, 0xE1] : List Byte) ∧
    ¬ (commanded 0 0).cd.executedCommands + 1 > (commanded 0 0).cd.maxCommands ∧
    (commanded 0 1).cd.executedCommands + 1 > (commanded 0 1).cd.maxCommands ∧
    (commanded 0 0).config.cdEarlyCommand = .executed ∧ deaf.place 0x25890024 = .cdBlock 0x90024 ∧
    deaf.cd.initializationDone = false ∧ deaf.config.cdEarlyCommand = .ignored := by decide

theorem witness_cd_registers :
    (start []).place 0x25890008 = .cdBlock 0x90008 ∧ (start []).place 0x2589000C = .cdBlock 0x9000C ∧
    (start []).place 0x25890018 = .cdBlock 0x90018 ∧ (start []).place 0x2589001C = .cdBlock 0x9001C ∧
    (start []).place 0x25890020 = .cdBlock 0x90020 ∧ (start []).place 0x25890024 = .cdBlock 0x90024 ∧
    (0x25890008 : Word).toNat % 2 = 0 ∧ (0x2589000C : Word).toNat % 2 = 0 ∧
    (true = true ↔ (start []).cd.commandBeingInitialized = true ∨ (start []).cd.initializationDone = true ∨
      (start []).config.cdEarlyCommand = .executed) ∧
    (false = true ↔ deaf.cd.commandBeingInitialized = true ∨ deaf.cd.initializationDone = true ∨
      deaf.config.cdEarlyCommand = .executed) := by decide

/-- `run(1)` is due, with the handshake done or not, this countdown, and a command being written or not. -/
def ticking (done : Bool) (left : Int) (writing : Bool) : State :=
  { start [.due [.cdRun 1]] with
    cd := { Cd.reset Params.default with
      initializationDone := done, elapsedCycles := left, commandBeingInitialized := writing } }

/-- Before the handshake; one cycle left over; exactly at the end of the countdown, a command being written or not. -/
theorem witness_cd_periodic_tick :
    (ticking false 1 false).hostInputs = .cdRun 1 :: [] ∧ (ticking false 1 false).emulationStopped = false ∧
    (ticking false 1 false).cd.initializationDone = false ∧ (ticking true 2 false).cd.initializationDone = true ∧
    0 < (ticking true 2 false).cd.elapsedCycles - (1 : Nat) ∧ (ticking true 1 true).cd.elapsedCycles - (1 : Nat) ≤ 0 ∧
    (ticking true 1 true).cd.commandBeingInitialized = true ∧
    (ticking true 1 false).cd.commandBeingInitialized = false := by decide

/-- Both ends of a register of 16 bits, and the greatest value that fits a field of eight bits. -/
theorem witness_bit_fields :
    0 < 16 ∧ 15 < 16 ∧ (0x00FF : Half).toNat < 2 ^ (BitRange.width (n := 16) ⟨4, 11, by decide, by decide⟩) := by
  decide

theorem witness_resets_called_by_the_host :
    (start [.due [.resetCpu .slave], .b32 0 0x400, .b32 4 0x06002000]).hostInputs = .resetCpu .slave :: [] ∧
    (start [.due [.resetCpu .slave], .b32 0 0x400, .b32 4 0x06002000]).emulationStopped = false ∧
    plainLong (start [.due [.resetCpu .slave], .b32 0 0x400, .b32 4 0x06002000]) 0 = some 0x400 ∧
    plainLong (start [.due [.resetCpu .slave], .b32 0 0x400, .b32 4 0x06002000]) 4 = some 0x06002000 ∧
    (start [.due [.resetScu]]).hostInputs = .resetScu :: [] ∧ (start [.due [.resetScu]]).emulationStopped = false ∧
    (start [.due [.resetCd]]).hostInputs = .resetCd :: [] ∧ (start [.due [.resetCd]]).emulationStopped = false := by
  decide

/-- A step of the master and one of the slave. -/
theorem witness_cpus_are_separate :
    (∃ t, step (start [.b16 0x06004000 0x0009]) = .next t) ∧ (start []).active = .master ∧
    (start []).hostInputs = [] ∧ (∃ t, step { start [] with active := .slave } = .next t) ∧
    ({ start [] with active := .slave } : State).active = .slave :=
  ⟨⟨_, rfl⟩, rfl, rfl, ⟨_, rfl⟩, rfl⟩

end Sys2Proof.Tests
end

section
/-!
SUPPORT. Invariants of the core: the induction of Laws/Step.lean put together for predicates that do not speak of an
interrupt being taken, and the DMA queue as the first of them.
-/

namespace Sys2Proof.Machine

/-- A predicate that the primitive changes and the host's calls keep, and that says of a CPU nothing but its device
registers, is kept by every step of the core. -/
theorem Kept.step_keeps {P : State → Prop} (h : Kept P) (hh : KeptByHost P)
    (cpu : ∀ s f, (f s.cpu).intc = s.cpu.intc → P s → P (s.mapCpu f)) {s t : State} (hp : P s)
    (ht : Machine.step s = .next t) : P t :=
  have steps : ∀ s, P s → Ends P (Machine.cpuStep s) := fun _ hp =>
    h.cpuStep (Q := fun _ => P) (fun _ => h) (fun _ _ _ => cpu _ _ rfl) (fun _ _ => cpu _ _ rfl) hp
  (h.step hh steps hp).of_next ht

/-! ### The DMA queue (R56, R405, R408) -/

/-- A register write leaves the queue alone. -/
@[simp] theorem Scu.write_queue (u : Scu) (p : Params) (reg : ScuReg) (v : Word) : (u.write p reg v).queue = u.queue := by
  cases reg <;> rfl

@[simp] theorem State.scuRaise_queue (s : State) (src : ScuSource) : (s.scuRaise src).scu.queue = s.scu.queue := by
  rw [State.scuRaise_effect]

/-- What `queueOrdered` says of the queue alone. -/
def QueueOrdered (q : List DmaConfig) : Prop :=
  q.Pairwise (fun a b => a.level ≤ b.level) ∧ ∀ cfg ∈ q, cfg.status = .waitingStartFactor ∨ cfg.status = .queued

theorem State.queueOrdered_iff {s : State} : s.queueOrdered ↔ QueueOrdered s.scu.queue := Iff.rfl

theorem mem_insertByLevel {cfg e : DmaConfig} {q : List DmaConfig} : e ∈ insertByLevel cfg q ↔ e = cfg ∨ e ∈ q := by
  induction q with
  | nil => simp [insertByLevel]
  | cons x q ih =>
    unfold insertByLevel
    split
    · simp
    · simp only [List.mem_cons, ih]
      tauto

/-- An entry put behind those of its level keeps the order (R405). -/
theorem pairwise_insertByLevel (cfg : DmaConfig) {q : List DmaConfig} (h : q.Pairwise fun a b => a.level ≤ b.level) :
    (insertByLevel cfg q).Pairwise fun a b => a.level ≤ b.level := by
  induction q with
  | nil => simp [insertByLevel]
  | cons x q ih =>
    obtain ⟨hx, hq⟩ := List.pairwise_cons.mp h
    unfold insertByLevel
    split
    next lower =>
      refine List.pairwise_cons.mpr ⟨fun e he => ?_, h⟩
      rcases List.mem_cons.mp he with rfl | he
      · exact le_of_lt lower
      · exact (le_of_lt lower).trans (hx e he)
    next notLower =>
      refine List.pairwise_cons.mpr ⟨fun e he => ?_, ih hq⟩
      rcases mem_insertByLevel.mp he with rfl | he
      · exact not_lt.mp notLower
      · exact hx e he

theorem QueueOrdered.add {q : List DmaConfig} (cfg : DmaConfig) (h : QueueOrdered q) :
    QueueOrdered (addDmaToQueue cfg q) := by
  obtain ⟨sorted, idle⟩ := h
  refine ⟨pairwise_insertByLevel _ sorted, fun e he => ?_⟩
  rcases mem_insertByLevel.mp he with rfl | he
  · dsimp only
    split
    · exact .inr rfl
    · exact .inl rfl
  · exact idle e he

theorem QueueOrdered.tail {q : List DmaConfig} {cfg : DmaConfig} (h : QueueOrdered (cfg :: q)) : QueueOrdered q :=
  ⟨(List.pairwise_cons.mp h.1).2, fun e he => h.2 e (.tail _ he)⟩

@[simp] theorem DmaConfig.release_level (cfg : DmaConfig) (f : BitVec 3) : (cfg.release f).level = cfg.level := by
  unfold DmaConfig.release
  split <;> rfl

/-- A start event leaves an entry's status as it is, or makes it queued (R406). -/
theorem DmaConfig.release_status (cfg : DmaConfig) (f : BitVec 3) :
    (cfg.release f).status = cfg.status ∨ (cfg.release f).status = .queued := by
  unfold DmaConfig.release
  split
  · exact .inr rfl
  · exact .inl rfl

theorem QueueOrdered.release {q : List DmaConfig} (f : BitVec 3) (h : QueueOrdered q) :
    QueueOrdered (q.map fun cfg => cfg.release f) := by
  obtain ⟨sorted, idle⟩ := h
  refine ⟨List.pairwise_map.mpr (sorted.imp fun hab => by simpa using hab), fun e he => ?_⟩
  obtain ⟨cfg, hcfg, rfl⟩ := List.mem_map.mp he
  rcases cfg.release_status f with same | queued
  · exact same ▸ idle cfg hcfg
  · exact .inr queued

theorem QueueOrdered.nil : QueueOrdered [] := ⟨.nil, by simp⟩

/-- The order does not depend on anything but the queue. -/
theorem State.queueOrdered_of_queue_eq {s t : State} (e : t.scu.queue = s.scu.queue) (h : s.queueOrdered) :
    t.queueOrdered := by
  rw [State.queueOrdered_iff] at h ⊢
  rwa [e]

theorem kept_queueOrdered : Kept State.queueOrdered where
  cpu _ _ _ := State.queueOrdered_of_queue_eq rfl
  mem _ _ _ := State.queueOrdered_of_queue_eq rfl
  onChip _ _ _ := State.queueOrdered_of_queue_eq rfl
  intc16 _ _ _ := State.queueOrdered_of_queue_eq rfl
  intc32 _ _ _ := State.queueOrdered_of_queue_eq rfl
  cdRead _ := State.queueOrdered_of_queue_eq rfl
  cdWrite _ _ _ := State.queueOrdered_of_queue_eq rfl
  scuWrite _ _ _ := State.queueOrdered_of_queue_eq (Scu.write_queue _ _ _ _)
  enqueue _ _ h := QueueOrdered.add _ h
  dequeue _ _ _ e h := QueueOrdered.tail (e ▸ State.queueOrdered_iff.mp h)
  channel _ _ _ _ := State.queueOrdered_of_queue_eq rfl
  raise _ _ := State.queueOrdered_of_queue_eq (State.scuRaise_queue _ _)
  halt _ _ := State.queueOrdered_of_queue_eq rfl
  leave _ := State.queueOrdered_of_queue_eq rfl

theorem keptByHost_queueOrdered : KeptByHost State.queueOrdered where
  inputs _ _ := State.queueOrdered_of_queue_eq rfl
  active _ _ := State.queueOrdered_of_queue_eq rfl
  cdRun _ _ := State.queueOrdered_of_queue_eq rfl
  release _ _ h := QueueOrdered.release _ h
  send _ _ _ := State.queueOrdered_of_queue_eq rfl
  pin _ _ _ := State.queueOrdered_of_queue_eq rfl
  resetScu _ _ := QueueOrdered.nil
  resetCd _ := State.queueOrdered_of_queue_eq rfl
  powerOn _ _ _ _ _ _ := State.queueOrdered_of_queue_eq rfl
  resume _ := State.queueOrdered_of_queue_eq rfl

end Sys2Proof.Machine

namespace Sys2Proof.Proofs

open Sys2Proof.Machine

/-- Settles O52: every primitive change of a step keeps the order, of which only the insertion by level, the removal of
the head and the release of waiting entries touch the queue. -/
theorem queueInvariantKept : Obligations.queue_invariant_kept := fun _ _ ordered next =>
  kept_queueOrdered.step_keeps keptByHost_queueOrdered
    (fun _ _ _ => State.queueOrdered_of_queue_eq rfl) ordered next

end Sys2Proof.Proofs
end

section
/-!
SUPPORT. The device registers: what a channel register reads as after a write to one, and that every change of a device
leaves the unassigned bits clear.
-/

namespace Sys2Proof.Machine

/-! ### Bits of a mask -/

theorem and_and_eq_zero_of_left {n : Nat} {reg k : BitVec n} (v : BitVec n) (h : reg &&& k = 0) :
    reg &&& v &&& k = 0 := by
  rw [BitVec.and_assoc, BitVec.and_comm v, ← BitVec.and_assoc, h]
  exact BitVec.zero_and

theorem and_and_eq_zero_of_disjoint {n : Nat} {m k : BitVec n} (v : BitVec n) (h : m &&& k = 0) :
    v &&& m &&& k = 0 := by
  rw [BitVec.and_assoc, h]
  exact BitVec.and_zero

theorem or_and_eq_zero {n : Nat} {x y k : BitVec n} (hx : x &&& k = 0) (hy : y &&& k = 0) : (x ||| y) &&& k = 0 := by
  rw [BitVec.and_or_distrib_right, hx, hy]
  exact BitVec.or_zero

/-! ### DMA channels, IMS and IST (R46 to R54) -/

/-- A channel register after a write of one of them. -/
theorem DmaChannel.get_put (c : DmaChannel) (reg r : ChannelReg) (v : Word) :
    (c.put reg v).get r = if r = reg then v else c.get r := by
  cases reg <;> cases r <;> rfl

/-- The unassigned bits of a channel register are those outside its mask. -/
theorem DmaChannel.reservedClear_iff {c : DmaChannel} {p : Params} {level : Fin 3} :
    c.reservedClear p level ↔ ∀ reg : ChannelReg, c.get reg &&& ~~~reg.mask p level = 0 := by
  have address : ~~~(0x07FFFFFF : Word) = 0xF8000000 := rfl
  have addValue : ~~~(0x00000107 : Word) = 0xFFFFFEF8 := rfl
  have enable : ~~~(0x00000101 : Word) = 0xFFFFFEFE := rfl
  have mode : ~~~(0x01010107 : Word) = 0xFEFEFEF8 := rfl
  unfold DmaChannel.reservedClear
  rw [← address, ← addValue, ← enable, ← mode]
  constructor
  · rintro ⟨read, write, count, add, enable, mode⟩ reg
    cases reg
    exacts [read, write, count, add, enable, mode]
  · exact fun h => ⟨h .readAddr, h .writeAddr, h .count, h .addValue, h .enable, h .mode⟩

theorem DmaChannel.put_reservedClear {c : DmaChannel} {p : Params} {level : Fin 3} (reg : ChannelReg) (v : Word)
    (h : c.reservedClear p level) : (c.put reg (v &&& reg.mask p level)).reservedClear p level := by
  rw [DmaChannel.reservedClear_iff] at h ⊢
  intro r
  rw [DmaChannel.get_put]
  split
  next same => exact same ▸ and_and_eq_zero_of_disjoint v (BitVec.and_not_self _)
  next => exact h r

/-- What `State.reservedClear` says of the SCU. -/
def Scu.reservedClear (u : Scu) (p : Params) : Prop :=
  (∀ level, (u.channel level).reservedClear p level) ∧ u.ims &&& 0xFFFF4000 = 0 ∧ u.ist &&& 0x0000C000 = 0

theorem Scu.putChannel_reservedClear {u : Scu} {p : Params} (level : Fin 3) (reg : ChannelReg) (v : Word)
    (h : u.reservedClear p) : (u.putChannel p level reg v).reservedClear p := by
  obtain ⟨channels, ims, ist⟩ := h
  refine ⟨fun k => ?_, ims, ist⟩
  rw [Scu.channel_putChannel]
  split
  next same => exact same ▸ DmaChannel.put_reservedClear reg v (channels k)
  next => exact channels k

theorem Scu.write_reservedClear {u : Scu} {p : Params} (reg : ScuReg) (v : Word) (h : u.reservedClear p) :
    (u.write p reg v).reservedClear p := by
  cases reg with
  | channel level r => exact Scu.putChannel_reservedClear level r v h
  | ims =>
    obtain ⟨channels, -, ist⟩ := h
    exact ⟨channels, and_and_eq_zero_of_disjoint v rfl, ist⟩
  | ist =>
    obtain ⟨channels, ims, ist⟩ := h
    exact ⟨channels, ims, and_and_eq_zero_of_left v ist⟩
  | latch l => exact h

/-- No source of R524 has one of the unassigned bits 15 and 14 of IST. -/
theorem ScuSource.statusBit_reserved (src : ScuSource) : (1#32 <<< src.statusBit) &&& 0x0000C000 = 0 := by
  cases src with
  | external n => revert n; decide
  | _ => decide

theorem Scu.raise_reservedClear {u : Scu} {p : Params} (src : ScuSource) (h : u.reservedClear p) :
    Scu.reservedClear { u with ist := u.ist ||| (1#32 <<< src.statusBit) } p := by
  obtain ⟨channels, ims, ist⟩ := h
  exact ⟨channels, ims, or_and_eq_zero ist src.statusBit_reserved⟩

theorem Scu.reset_reservedClear (p : Params) : Scu.reset.reservedClear p := by
  refine ⟨fun level => ?_, by decide, by decide⟩
  have channel : Scu.reset.channel level = DmaChannel.reset := by revert level; decide
  rw [channel]
  exact ⟨by decide, by decide, BitVec.zero_and, by decide, by decide, by decide⟩

/-! ### The interrupt controllers (R43) -/

theorem Cpu.writeIntc16_reservedClear {c : Cpu} (reg : IntcReg) (v : Half) (h : c.intc.reservedClear) :
    (c.writeIntc16 reg v).intc.reservedClear := by
  obtain ⟨iprb, vcra, vcrb, vcrc, vcrd, icr, ipra, vcrwdt⟩ := h
  have masked {m k : Half} : m &&& k = 0 → v &&& m &&& k = 0 := and_and_eq_zero_of_disjoint v
  cases reg
  case iprb => exact ⟨masked rfl, vcra, vcrb, vcrc, vcrd, icr, ipra, vcrwdt⟩
  case vcra => exact ⟨iprb, masked rfl, vcrb, vcrc, vcrd, icr, ipra, vcrwdt⟩
  case vcrb => exact ⟨iprb, vcra, masked rfl, vcrc, vcrd, icr, ipra, vcrwdt⟩
  case vcrc => exact ⟨iprb, vcra, vcrb, masked rfl, vcrd, icr, ipra, vcrwdt⟩
  case vcrd => exact ⟨iprb, vcra, vcrb, vcrc, masked rfl, icr, ipra, vcrwdt⟩
  case icr => exact ⟨iprb, vcra, vcrb, vcrc, vcrd, masked rfl, ipra, vcrwdt⟩
  case ipra => exact ⟨iprb, vcra, vcrb, vcrc, vcrd, icr, masked rfl, vcrwdt⟩
  case vcrwdt => exact ⟨iprb, vcra, vcrb, vcrc, vcrd, icr, ipra, masked rfl⟩
  all_goals exact ⟨iprb, vcra, vcrb, vcrc, vcrd, icr, ipra, vcrwdt⟩

theorem Cpu.writeIntc32_reservedClear {c : Cpu} (reg : IntcReg) (v : Word) (h : c.intc.reservedClear) :
    (c.writeIntc32 reg v).intc.reservedClear := by
  cases reg <;> exact h

theorem Intc.reset_reservedClear : Intc.reset.reservedClear := by
  unfold Intc.reservedClear
  decide

@[simp] theorem Cpu.sendInterrupt_intc (c : Cpu) (d : Interrupt) : (c.sendInterrupt d).intc = c.intc := by
  unfold Cpu.sendInterrupt
  split
  · rfl
  · split <;> rfl

@[simp] theorem Cpu.returnFromInterrupt_intc (c : Cpu) : c.returnFromInterrupt.intc = c.intc := by
  unfold Cpu.returnFromInterrupt
  split <;> rfl

/-! ### HIRQ (R58, R441) -/

/-- The unassigned bits of HIRQ read 0. -/
def Cd.reservedClear (c : Cd) : Prop := c.hirq &&& 0xF800 = 0

/-- A field outside the unassigned bits may take any value. -/
theorem BitRange.set_and_eq_zero {n : Nat} {f : BitRange n} {reg k : BitVec n} (v : BitVec n) (hf : f.mask &&& k = 0)
    (h : reg &&& k = 0) : f.set reg v &&& k = 0 :=
  or_and_eq_zero (and_and_eq_zero_of_left _ h) (and_and_eq_zero_of_disjoint _ hf)

theorem Cd.raise_reservedClear {c : Cd} {flag : BitRange 16} (hf : flag.mask &&& 0xF800 = 0) (h : c.reservedClear) :
    (c.raise flag).reservedClear :=
  BitRange.set_and_eq_zero 1 hf h

theorem hirqCmok_assigned : hirqCmok.mask &&& 0xF800 = 0 := by decide
theorem hirqEfls_assigned : hirqEfls.mask &&& 0xF800 = 0 := by decide
theorem hirqScdq_assigned : hirqScdq.mask &&& 0xF800 = 0 := by decide

theorem Cd.runCommand_reservedClear {c : Cd} (p : Params) (cmd : CdCommand) (h : c.reservedClear) :
    (c.runCommand p cmd).reservedClear := by
  cases cmd with
  | abortFile =>
    unfold Cd.runCommand
    dsimp only
    split
    · exact Cd.raise_reservedClear hirqEfls_assigned (Cd.raise_reservedClear hirqCmok_assigned h)
    · exact Cd.raise_reservedClear hirqCmok_assigned h
  | _ => exact Cd.raise_reservedClear hirqCmok_assigned h

theorem Cd.executeCommand_reservedClear {c : Cd} (p : Params) (h : c.reservedClear) :
    (c.executeCommand p).reservedClear := by
  have dispatched : (c.dispatch p).reservedClear := by
    unfold Cd.dispatch
    split
    · exact Cd.runCommand_reservedClear p _ h
    · exact h
  unfold Cd.executeCommand Cd.throttle
  dsimp only
  split
  · exact BitRange.set_and_eq_zero 0 hirqCmok_assigned dispatched
  · exact dispatched

theorem Cd.write16_reservedClear {c : Cd} (p : Params) (reg : CdReg) (v : Half) (h : c.reservedClear) :
    (c.write16 p reg v).reservedClear := by
  cases reg with
  | hirq => exact and_and_eq_zero_of_left v h
  | cr4 =>
    show (Cd.triggerCommand _ p).reservedClear
    unfold Cd.triggerCommand
    split
    · exact Cd.executeCommand_reservedClear p h
    · exact h
  | _ => exact h

theorem Cd.run_reservedClear {c : Cd} (p : Params) (cycles : Nat) (h : c.reservedClear) :
    (c.run p cycles).reservedClear := by
  unfold Cd.run Cd.tick
  dsimp only
  split
  · split
    · split
      · exact Cd.raise_reservedClear hirqCmok_assigned h
      · exact Cd.raise_reservedClear hirqScdq_assigned (Cd.raise_reservedClear hirqCmok_assigned h)
    · exact h
  · exact h

theorem Cd.reset_reservedClear (p : Params) : (Cd.reset p).reservedClear := by
  have reserved : ∀ high : BitVec 9, (0#5 ++ high ++ 0b11#2 : Half) &&& 0xF800 = 0 := by decide
  exact reserved p.hirqResetHigh

/-! ### The whole state -/

theorem State.reservedClear_iff {s : State} : s.reservedClear ↔
    s.scu.reservedClear s.config ∧ s.master.intc.reservedClear ∧ s.slave.intc.reservedClear ∧ s.cd.reservedClear := by
  unfold State.reservedClear Scu.reservedClear Cd.reservedClear
  tauto

theorem State.reservedClear_mapCpuOf {s : State} {c : CpuId} {f : Cpu → Cpu}
    (hf : ∀ cpu : Cpu, cpu.intc.reservedClear → (f cpu).intc.reservedClear) (h : s.reservedClear) :
    (s.mapCpuOf c f).reservedClear := by
  rw [State.reservedClear_iff] at h ⊢
  obtain ⟨scu, master, slave, cd⟩ := h
  cases c
  · exact ⟨scu, hf _ master, slave, cd⟩
  · exact ⟨scu, master, hf _ slave, cd⟩

/-- A change of a CPU that leaves its interrupt controller alone leaves the devices alone. -/
theorem State.reservedClear_mapCpu {s : State} {f : Cpu → Cpu} (hf : (f s.cpu).intc = s.cpu.intc)
    (h : s.reservedClear) : (s.mapCpu f).reservedClear := by
  rcases s with ⟨_, _, active, _⟩
  rw [State.reservedClear_iff] at h ⊢
  obtain ⟨scu, master, slave, cd⟩ := h
  cases active
  · exact ⟨scu, hf.symm ▸ master, slave, cd⟩
  · exact ⟨scu, master, hf.symm ▸ slave, cd⟩

theorem State.reservedClear_withScu {s : State} {u : Scu}
    (hu : s.scu.reservedClear s.config → u.reservedClear s.config) (h : s.reservedClear) :
    ({ s with scu := u } : State).reservedClear := by
  rw [State.reservedClear_iff] at h ⊢
  exact h.imp_left hu

theorem State.reservedClear_withCd {s : State} {c : Cd} (hc : s.cd.reservedClear → c.reservedClear)
    (h : s.reservedClear) : ({ s with cd := c } : State).reservedClear := by
  rw [State.reservedClear_iff] at h ⊢
  obtain ⟨scu, master, slave, cd⟩ := h
  exact ⟨scu, master, slave, hc cd⟩

theorem State.scuRaise_reservedClear {s : State} (src : ScuSource) (h : s.reservedClear) :
    (s.scuRaise src).reservedClear := by
  have raised := State.reservedClear_withScu (Scu.raise_reservedClear src) h
  unfold State.scuRaise
  dsimp only
  split
  · exact raised
  · exact State.reservedClear_mapCpuOf (fun cpu hc => (cpu.sendInterrupt_intc _).symm ▸ hc) raised

theorem kept_reservedClear : Kept State.reservedClear where
  cpu _ _ same := State.reservedClear_mapCpu same.intc
  mem _ _ _ h := h
  onChip _ _ _ := State.reservedClear_mapCpuOf fun _ hc => hc
  intc16 _ reg v := State.reservedClear_mapCpuOf fun _ => Cpu.writeIntc16_reservedClear reg v
  intc32 _ reg v := State.reservedClear_mapCpuOf fun _ => Cpu.writeIntc32_reservedClear reg v
  cdRead _ h := h
  cdWrite _ reg v := State.reservedClear_withCd (Cd.write16_reservedClear _ reg v)
  scuWrite _ reg v := State.reservedClear_withScu (Scu.write_reservedClear reg v)
  enqueue _ _ h := h
  dequeue _ _ _ _ h := h
  channel _ level reg v := State.reservedClear_withScu (Scu.putChannel_reservedClear level reg v)
  raise _ src := State.scuRaise_reservedClear src
  halt _ _ h := h
  leave _ := State.reservedClear_mapCpu (Cpu.returnFromInterrupt_intc _)

theorem keptByHost_reservedClear : KeptByHost State.reservedClear where
  inputs _ _ h := h
  active _ _ h := h
  cdRun _ n := State.reservedClear_withCd (Cd.run_reservedClear _ n)
  release _ _ h := h
  send _ _ d := State.reservedClear_mapCpuOf fun cpu hc => (cpu.sendInterrupt_intc d).symm ▸ hc
  pin _ _ _ := State.reservedClear_mapCpuOf fun _ hc => hc
  resetScu s := State.reservedClear_withScu fun _ => Scu.reset_reservedClear s.config
  resetCd s := State.reservedClear_withCd fun _ => Cd.reset_reservedClear s.config
  powerOn _ _ _ _ _ _ :=
    State.reservedClear_mapCpuOf (f := fun cpu => cpu.powerOn _ _ _) fun _ _ => Intc.reset_reservedClear
  resume _ h := h

end Sys2Proof.Machine

namespace Sys2Proof.Proofs

open Sys2Proof.Machine

/-- Settles O45: a register write masks its value, and nothing else that a step does sets an unassigned bit. -/
theorem reservedBitsKeptClear : Obligations.reserved_bits_kept_clear := fun _ _ clear next =>
  kept_reservedClear.step_keeps keptByHost_reservedClear (fun _ _ => State.reservedClear_mapCpu) clear next

end Sys2Proof.Proofs
end

section
/-!
SUPPORT. The SCU's register file as seen from the bus: which register stands at which offset (R45), what one reads as
after a write of one (R401, R403), and the accesses that lead there.
-/

namespace Sys2Proof.Machine

/-! ### Offsets (R45) -/

/-- One row of a table of offsets: it gives its own register, or the rest of the table decides. -/
theorem offset_of_row {α : Type} {offset : α → Nat} {off k : Nat} {x reg : α} {rest : Option α}
    (h : (if off = k then some x else rest) = some reg) (hx : offset x = k) (hrest : rest = some reg → off = offset reg) :
    off = offset reg := by
  split at h
  next hk => cases h; exact hk.trans hx.symm
  next => exact hrest h

/-- The offset of a register in its channel's block. -/
def ChannelReg.offset : ChannelReg → Nat
  | .readAddr  => 0x00
  | .writeAddr => 0x04
  | .count     => 0x08
  | .addValue  => 0x0C
  | .enable    => 0x10
  | .mode      => 0x14

theorem ChannelReg.ofOffset_eq_some {off : Nat} {reg : ChannelReg} (h : ChannelReg.ofOffset off = some reg) :
    off = reg.offset := by
  unfold ChannelReg.ofOffset at h
  iterate 6 refine offset_of_row h rfl fun h => ?_
  cases h

/-- The offset of a latch. -/
def ScuLatch.offset : ScuLatch → Nat
  | .dstp  => 0x60
  | .dsta  => 0x7C
  | .ppaf  => 0x80
  | .ppd   => 0x84
  | .pda   => 0x88
  | .pdd   => 0x8C
  | .t0c   => 0x90
  | .t1s   => 0x94
  | .t1md  => 0x98
  | .aiack => 0xA8
  | .asr0  => 0xB0
  | .asr1  => 0xB4
  | .aref  => 0xB8
  | .rsel  => 0xC4
  | .ver   => 0xC8

theorem ScuLatch.ofOffset_eq_some {off : Nat} {l : ScuLatch} (h : ScuLatch.ofOffset off = some l) : off = l.offset := by
  unfold ScuLatch.ofOffset at h
  iterate 15 refine offset_of_row h rfl fun h => ?_
  cases h

/-- The offset of a register, the inverse of `ScuReg.ofOffset`. -/
def ScuReg.offset : ScuReg → Nat
  | .channel level reg => 0x20 * level.val + reg.offset
  | .ims     => 0xA0
  | .ist     => 0xA4
  | .latch l => l.offset

theorem ScuReg.ofOffset_offset (reg : ScuReg) : ScuReg.ofOffset reg.offset = some reg := by
  cases reg with
  | channel level r => revert level; cases r <;> decide
  | ims | ist => rfl
  | latch l => cases l <;> rfl

theorem ScuReg.ofOffset_eq_some {off : Nat} {reg : ScuReg} (h : ScuReg.ofOffset off = some reg) : off = reg.offset := by
  unfold ScuReg.ofOffset at h
  split at h
  · obtain ⟨r, hr, rfl⟩ := Option.map_eq_some_iff.mp h
    simpa [ScuReg.offset] using ChannelReg.ofOffset_eq_some hr
  split at h
  · obtain ⟨r, hr, rfl⟩ := Option.map_eq_some_iff.mp h
    have := ChannelReg.ofOffset_eq_some hr
    show off = 0x20 * 1 + r.offset
    omega
  split at h
  · obtain ⟨r, hr, rfl⟩ := Option.map_eq_some_iff.mp h
    have := ChannelReg.ofOffset_eq_some hr
    show off = 0x20 * 2 + r.offset
    omega
  split at h
  next he => cases h; exact he
  split at h
  next he => cases h; exact he
  · obtain ⟨l, hl, rfl⟩ := Option.map_eq_some_iff.mp h
    exact ScuLatch.ofOffset_eq_some hl

/-- The registers of R45 marked 'no'. -/
def scuLatches : List ScuLatch :=
  [.dstp, .dsta, .ppaf, .ppd, .pda, .pdd, .t0c, .t1s, .t1md, .aiack, .asr0, .asr1, .aref, .rsel, .ver]

theorem ScuLatch.index_injective : Function.Injective ScuLatch.index :=
  Function.LeftInverse.injective (g := fun i => scuLatches.get i) fun l => by cases l <;> rfl

/-! ### Reading after writing (R401, R403) -/

/-- What a register holds after a write of it. -/
def Scu.kept (u : Scu) (p : Params) (reg : ScuReg) (v : Word) : Word :=
  match reg with
  | .channel level r => v &&& r.mask p level
  | .ims     => v &&& 0x0000BFFF
  | .ist     => u.ist &&& v
  | .latch _ => v

theorem Scu.read_putChannel (u : Scu) (p : Params) (level k : Fin 3) (reg r : ChannelReg) (v : Word) :
    ((u.putChannel p level reg v).channel k).get r =
      if k = level ∧ r = reg then v &&& reg.mask p level else (u.channel k).get r := by
  rw [Scu.channel_putChannel]
  by_cases hk : k = level
  · subst hk
    simp only [if_true, true_and, DmaChannel.get_put]
  · simp only [hk, if_false, false_and]

/-- A register after a write of one of them: the bits kept in the one written, and every other as before. -/
theorem Scu.read_write (u : Scu) (p : Params) (reg r : ScuReg) (v : Word) :
    (u.write p reg v).read r = if r = reg then u.kept p reg v else u.read r := by
  cases reg with
  | channel level c =>
    cases r with
    | channel k d =>
      simp only [ScuReg.channel.injEq]
      exact u.read_putChannel p level k c d v
    | _ => rfl
  | ims => cases r <;> rfl
  | ist => cases r <;> rfl
  | latch l =>
    cases r with
    | latch k =>
      simp only [Scu.write, Scu.read, Scu.kept, ScuReg.latch.injEq, Vector.get_eq_getElem, Vector.getElem_set,
        Fin.val_inj, ScuLatch.index_injective.eq_iff, eq_comm (a := l)]
    | _ => rfl

/-! ### Accesses -/

theorem memRead32_scu {s : State} {a : Word} {off : Nat} {reg : ScuReg} (ha : a.toNat % 4 = 0)
    (hp : s.place a = .scu off) (hr : ScuReg.ofOffset off = some reg) : memRead32 a s = .next (s.scu.read reg, s) := by
  simp [memRead32, busRead32, ha, hp, hr]

theorem memRead32_withScu {s : State} {a : Word} {off : Nat} {reg : ScuReg} (u : Scu) (ha : a.toNat % 4 = 0)
    (hp : s.place a = .scu off) (hr : ScuReg.ofOffset off = some reg) :
    memRead32 a { s with scu := u } = .next (u.read reg, { s with scu := u }) :=
  memRead32_scu (s := { s with scu := u }) ha hp hr

theorem memRead32_scu_none {s : State} {a : Word} {off : Nat} (ha : a.toNat % 4 = 0) (hp : s.place a = .scu off)
    (hr : ScuReg.ofOffset off = none) : memRead32 a s = .next (0, s) := by
  simp [memRead32, busRead32, ha, hp, hr]

theorem memWrite32_scu {s : State} {a v : Word} {off : Nat} (ha : a.toNat % 4 = 0) (hp : s.place a = .scu off) :
    memWrite32 a v s = scuWrite32 off v s := by
  simp [memWrite32, ha, hp]

theorem scuWrite32_none {s : State} {v : Word} {off : Nat} (hr : ScuReg.ofOffset off = none) :
    scuWrite32 off v s = .next s := by
  simp [scuWrite32, hr]

/-- A write that does not ask an enable register for a transfer is the register's part alone (R401, R402). -/
theorem scuWrite32_quiet {s : State} {v : Word} {off : Nat} {reg : ScuReg} (hr : ScuReg.ofOffset off = some reg)
    (quiet : ∀ level, reg = .channel level .enable → v.getLsbD 8 = false) :
    scuWrite32 off v s = .next { s with scu := s.scu.write s.config reg v } := by
  unfold scuWrite32
  rw [hr]
  dsimp only
  split
  next level => rw [quiet level rfl, if_neg Bool.false_ne_true]
  next => rfl

/-- A register write leaves what a load of any other offset reads. -/
theorem onlyScuRegister_write {s : State} {off : Nat} {reg : ScuReg} (v : Word) (hr : ScuReg.ofOffset off = some reg) :
    OnlyScuRegister off s { s with scu := s.scu.write s.config reg v } where
  frame := rfl
  queue := Scu.write_queue _ _ _ _
  others b k w hb hk read := by
    have aligned : b.toNat % 4 = 0 := by
      by_contra misaligned
      rw [memRead32_misaligned misaligned] at read
      cases read
    cases hk' : ScuReg.ofOffset k with
    | none =>
      rw [memRead32_scu_none aligned hb hk'] at read
      cases read
      exact memRead32_scu_none aligned hb hk'
    | some r =>
      have other : r ≠ reg := by
        rintro rfl
        exact hk ((ScuReg.ofOffset_eq_some hk').trans (ScuReg.ofOffset_eq_some hr).symm)
      rw [memRead32_scu aligned hb hk'] at read
      cases read
      rw [memRead32_withScu _ aligned hb hk', Scu.read_write, if_neg other]

/-- A store to a register and a load of it, where no transfer is triggered. -/
theorem scu_write_read {s : State} {a v : Word} {off : Nat} {reg : ScuReg} (ha : a.toNat % 4 = 0)
    (hp : s.place a = .scu off) (hr : ScuReg.ofOffset off = some reg)
    (quiet : ∀ level, reg = .channel level .enable → v.getLsbD 8 = false) :
    ∃ t, memWrite32 a v s = .next t ∧ memRead32 a t = .next (s.scu.kept s.config reg v, t) ∧
      OnlyScuRegister off s t := by
  refine ⟨_, (memWrite32_scu ha hp).trans (scuWrite32_quiet hr quiet), ?_, onlyScuRegister_write v hr⟩
  rw [memRead32_withScu _ ha hp hr, Scu.read_write, if_pos rfl]

/-! ### The registers by how they keep a value -/

/-- The registers that keep the bits of a mask, with their masks (R46 to R53). -/
def maskedRegs (p : Params) : List (ScuReg × Word) :=
  ([0, 1, 2].flatMap fun level => [.readAddr, .writeAddr, .count, .addValue, .enable, .mode].map fun r =>
    (.channel level r, r.mask p level)) ++ [(.ims, 0x0000BFFF)]

theorem kept_of_mem_maskedRegs {p : Params} {reg : ScuReg} {mask : Word} (h : (reg, mask) ∈ maskedRegs p) (u : Scu)
    (v : Word) : u.kept p reg v = v &&& mask := by
  simp only [maskedRegs, List.mem_append, List.mem_flatMap, List.mem_map, List.mem_singleton, Prod.mk.injEq] at h
  rcases h with ⟨level, -, r, -, rfl, rfl⟩ | ⟨rfl, rfl⟩
  · rfl
  · rfl

end Sys2Proof.Machine

namespace Sys2Proof.Proofs

open Sys2Proof.Machine

/-- Settles O46: each offset of the lists is a register's, and a register's write and read are `scu_write_read`. -/
theorem scuRegisterMasks : Obligations.scu_register_masks := by
  intro s a v mask off countMask ha hp hcount
  obtain rfl : countMask = s.config.dmaCountMask := funext hcount
  refine ⟨fun mem quiet => ?_, fun ist => ?_, fun mem => ?_, fun mem => ?_⟩
  · obtain ⟨⟨reg, m⟩, hreg, e⟩ : ∃ r ∈ maskedRegs s.config, (r.1.offset, r.2) = (off, mask) := List.mem_map.mp mem
    obtain ⟨rfl, rfl⟩ := Prod.mk.inj e
    rw [← kept_of_mem_maskedRegs hreg s.scu v]
    have enables : ∀ level, (ScuReg.channel level .enable).offset ∈ [0x10, 0x30, 0x50] := by decide
    exact scu_write_read ha hp reg.ofOffset_offset fun level e => quiet (e ▸ enables level)
  · subst ist
    exact scu_write_read ha hp (reg := .ist) rfl nofun
  · obtain ⟨l, -, rfl⟩ : ∃ l ∈ scuLatches, l.offset = off := List.mem_map.mp mem
    exact scu_write_read ha hp (ScuReg.latch l).ofOffset_offset nofun
  · have noRegister : ∀ k ∈ [0x18, 0x1C, 0x38, 0x3C, 0x58, 0x5C, 0x64, 0x68, 0x6C, 0x70, 0x74, 0x78, 0x9C, 0xAC, 0xBC,
        0xC0], ScuReg.ofOffset k = none := by decide
    exact ⟨(memWrite32_scu ha hp).trans (scuWrite32_none (noRegister off mem)),
      memRead32_scu_none ha hp (noRegister off mem)⟩

end Sys2Proof.Proofs
end

section
/-!
SUPPORT. The on-chip block as seen from the active CPU (R42 to R44): its registers at their own width, its latches at
any width, and what each reads as after a store.
-/

namespace Sys2Proof.Machine

/-- Nothing outside the active CPU changes when that CPU alone is changed. -/
theorem sameOutside_mapCpu (s : State) (f : Cpu → Cpu) : SameOutside s (s.mapCpu f) :=
  ⟨rfl, State.mapCpu_other s f, rfl, rfl, rfl, rfl, rfl, rfl, rfl, rfl⟩

/-- The last 512 addresses are the on-chip block, whatever the region table says (R42, R97). -/
theorem State.place_onChip (s : State) {a : Word} (h : 0xFFFFFE00 ≤ a.toNat) :
    s.place a = .onChip (a.toNat - 0xFFFFFE00) := by
  have space : (a.extractLsb' 29 3).toNat = 7 := by
    simp only [BitVec.extractLsb'_toNat, Nat.shiftRight_eq_div_pow]
    omega
  have mirrored : ¬ (a.extractLsb' 29 3 = 0#3 ∨ a.extractLsb' 29 3 = 1#3) := by
    rintro (h | h) <;> rw [h] at space <;> cases space
  exact (if_neg mirrored).trans (if_pos h)

/-! ### The registers of the interrupt controller (R43) -/

/-- The register's address. -/
def IntcReg.address (reg : IntcReg) : Word := BitVec.ofNat 32 (0xFFFFFE00 + reg.offset)

/-- The bits of a 16-bit register that software can write. -/
def IntcReg.mask : IntcReg → Half
  | .iprb => 0xFF00
  | .vcra | .vcrb | .vcrc | .vcrwdt => 0x7F7F
  | .vcrd => 0x7F00
  | .icr  => 0x0101
  | .ipra => 0xFFF0
  | .vcrdiv | .vcrdma0 | .vcrdma1 => 0

theorem IntcReg.address_toNat (reg : IntcReg) : reg.address.toNat = 0xFFFFFE00 + reg.offset := by
  cases reg <;> rfl

theorem IntcReg.aligned (reg : IntcReg) : reg.address.toNat % reg.bytes = 0 := by
  cases reg <;> rfl

theorem IntcReg.place (s : State) (reg : IntcReg) : s.place reg.address = .onChip reg.offset := by
  rw [s.place_onChip (by rw [reg.address_toNat]; omega), reg.address_toNat, Nat.add_sub_cancel_left]

theorem onChipPlace_register (reg : IntcReg) : onChipPlace reg.offset reg.bytes = .register reg := by
  cases reg <;> rfl

/-- The registers of 16 bits. -/
def halfRegs : List IntcReg := [.iprb, .vcra, .vcrb, .vcrc, .vcrd, .icr, .ipra, .vcrwdt]

/-- The registers of 32 bits. -/
def wordRegs : List IntcReg := [.vcrdiv, .vcrdma0, .vcrdma1]

theorem mem_halfRegs {reg : IntcReg} : reg ∈ halfRegs ↔ reg.bytes = 2 := by
  cases reg <;> decide

theorem mem_wordRegs {reg : IntcReg} : reg ∈ wordRegs ↔ reg.bytes = 4 := by
  cases reg <;> decide

theorem IntcReg.bytes_eq (reg : IntcReg) : reg.bytes = 2 ∨ reg.bytes = 4 := by
  cases reg <;> decide

theorem intcHalves_eq : intcHalves = halfRegs.map fun reg => (reg.address, reg.mask) := rfl

theorem intcWords_eq : intcWords = wordRegs.map IntcReg.address := rfl

theorem mem_intcHalves {a : Word} {m : Half} (h : (a, m) ∈ intcHalves) :
    ∃ reg : IntcReg, reg.bytes = 2 ∧ reg.address = a ∧ reg.mask = m := by
  obtain ⟨reg, mem, e⟩ := List.mem_map.mp (intcHalves_eq ▸ h)
  obtain ⟨rfl, rfl⟩ := Prod.mk.inj e
  exact ⟨reg, mem_halfRegs.mp mem, rfl, rfl⟩

theorem mem_intcWords {a : Word} (h : a ∈ intcWords) : ∃ reg : IntcReg, reg.bytes = 4 ∧ reg.address = a := by
  obtain ⟨reg, mem, rfl⟩ := List.mem_map.mp (intcWords_eq ▸ h)
  exact ⟨reg, mem_wordRegs.mp mem, rfl⟩

theorem memRead16_intc (s : State) {reg : IntcReg} (h : reg.bytes = 2) :
    memRead16 reg.address s = .next (s.cpu.readIntc16 reg, s) := by
  have aligned := h ▸ reg.aligned
  have place := h ▸ onChipPlace_register reg
  simp [memRead16, busRead16, aligned, reg.place, place, State.cpu]

theorem memRead32_intc (s : State) {reg : IntcReg} (h : reg.bytes = 4) :
    memRead32 reg.address s = .next (s.cpu.readIntc32 reg, s) := by
  have aligned := h ▸ reg.aligned
  have place := h ▸ onChipPlace_register reg
  simp [memRead32, busRead32, aligned, reg.place, place, State.cpu]

theorem memWrite16_intc (s : State) {reg : IntcReg} (v : Half) (h : reg.bytes = 2) :
    memWrite16 reg.address v s = .next (s.mapCpu fun c => c.writeIntc16 reg v) := by
  have aligned := h ▸ reg.aligned
  have place := h ▸ onChipPlace_register reg
  simp [memWrite16, aligned, reg.place, place]

theorem memWrite32_intc (s : State) {reg : IntcReg} (v : Word) (h : reg.bytes = 4) :
    memWrite32 reg.address v s = .next (s.mapCpu fun c => c.writeIntc32 reg v) := by
  have aligned := h ▸ reg.aligned
  have place := h ▸ onChipPlace_register reg
  simp [memWrite32, aligned, reg.place, place]

theorem Cpu.writeIntc16_frame (c : Cpu) (reg : IntcReg) (v : Half) :
    c.writeIntc16 reg v = { c with intc := (c.writeIntc16 reg v).intc } := by
  cases reg <;> rfl

theorem Cpu.writeIntc32_frame (c : Cpu) (reg : IntcReg) (v : Word) :
    c.writeIntc32 reg v = { c with intc := (c.writeIntc32 reg v).intc } := by
  cases reg <;> rfl

/-- A 16-bit register keeps the bits of its mask; ICR shows the pin in bit 15 (R43). -/
theorem Cpu.readIntc16_writeIntc16_same (c : Cpu) {reg : IntcReg} (v : Half) (h : reg.bytes = 2) :
    (c.writeIntc16 reg v).readIntc16 reg =
      (v &&& reg.mask) ||| (if reg.address = 0xFFFFFEE0 ∧ c.nmiPin = true then 0x8000 else 0) := by
  have latched (m : Half) : v &&& m = v &&& m ||| 0 := BitVec.or_zero.symm
  cases reg
  case icr =>
    show (v &&& 0x0101 &&& 0x7FFF) ||| (if c.nmiPin then 0x8000 else 0x0000) =
      (v &&& 0x0101) ||| (if IntcReg.icr.address = 0xFFFFFEE0 ∧ c.nmiPin = true then 0x8000 else 0)
    have icr : IntcReg.icr.address = 0xFFFFFEE0 := rfl
    simp only [icr, true_and, BitVec.and_assoc]
    rfl
  case vcrdiv | vcrdma0 | vcrdma1 => cases h
  all_goals exact latched _

theorem Cpu.readIntc16_writeIntc16 (c : Cpu) (reg r : IntcReg) (v : Half) :
    (c.writeIntc16 reg v).readIntc16 r =
      if r = reg then (c.writeIntc16 reg v).readIntc16 reg else c.readIntc16 r := by
  cases reg <;> cases r <;> rfl

theorem Cpu.readIntc32_writeIntc16 (c : Cpu) (reg r : IntcReg) (v : Half) :
    (c.writeIntc16 reg v).readIntc32 r = c.readIntc32 r := by
  cases reg <;> cases r <;> rfl

/-- A 32-bit register keeps the value written (R43). -/
theorem Cpu.readIntc32_writeIntc32 (c : Cpu) (reg r : IntcReg) (v : Word) :
    (c.writeIntc32 reg v).readIntc32 r = if r = reg ∧ reg.bytes = 4 then v else c.readIntc32 r := by
  cases reg <;> cases r <;> rfl

theorem Cpu.readIntc16_writeIntc32 (c : Cpu) (reg r : IntcReg) (v : Word) :
    (c.writeIntc32 reg v).readIntc16 r = c.readIntc16 r := by
  cases reg <;> cases r <;> rfl

/-- A load of a 16-bit register after a change of the CPU that leaves it alone. -/
theorem memRead16_intc_mapCpu {s : State} {f : Cpu → Cpu} {reg : IntcReg} {x : Half} (h : reg.bytes = 2)
    (same : (f s.cpu).readIntc16 reg = s.cpu.readIntc16 reg) (read : memRead16 reg.address s = .next (x, s)) :
    memRead16 reg.address (s.mapCpu f) = .next (x, s.mapCpu f) := by
  rw [memRead16_intc s h] at read
  cases read
  rw [memRead16_intc _ h, State.mapCpu_cpu, same]

/-- The same of a 32-bit register. -/
theorem memRead32_intc_mapCpu {s : State} {f : Cpu → Cpu} {reg : IntcReg} {x : Word} (h : reg.bytes = 4)
    (same : (f s.cpu).readIntc32 reg = s.cpu.readIntc32 reg) (read : memRead32 reg.address s = .next (x, s)) :
    memRead32 reg.address (s.mapCpu f) = .next (x, s.mapCpu f) := by
  rw [memRead32_intc s h] at read
  cases read
  rw [memRead32_intc _ h, State.mapCpu_cpu, same]

/-! ### The latches (R44) -/

/-- The offset of an on-chip address. -/
def onChipOffset (a : Word) : Nat := a.toNat - 0xFFFFFE00

theorem onChipLatch_iff {a : Word} : onChipLatch a = true ↔
    0xFFFFFE00 ≤ a.toNat ∧
      ∀ reg : IntcReg, ¬ (reg.offset ≤ onChipOffset a ∧ onChipOffset a < reg.offset + reg.bytes) := by
  have shift (reg : IntcReg) (n : Nat) (start : 0xFFFFFE00 ≤ a.toNat) :
      (0xFFFFFE00 + reg.offset ≤ a.toNat ∧ a.toNat < 0xFFFFFE00 + reg.offset + n) ↔
        (reg.offset ≤ onChipOffset a ∧ onChipOffset a < reg.offset + n) := by
    unfold onChipOffset
    omega
  simp only [onChipLatch, intcHalves_eq, intcWords_eq, List.all_map, List.all_eq_true, Function.comp_apply, mem_halfRegs,
    mem_wordRegs, IntcReg.address_toNat, Bool.and_eq_true, Bool.not_eq_true', Bool.and_eq_false_iff, decide_eq_true_eq,
    decide_eq_false_iff_not, ← not_and_or]
  constructor
  · rintro ⟨⟨start, halves⟩, words⟩
    refine ⟨start, fun reg => ?_⟩
    rw [← shift reg _ start]
    rcases reg.bytes_eq with h | h
    · exact h ▸ halves reg h
    · exact h ▸ words reg h
  · rintro ⟨start, untouched⟩
    have outside (reg : IntcReg) := (shift reg reg.bytes start).not.mpr (untouched reg)
    exact ⟨⟨start, fun reg h => h ▸ outside reg⟩, fun reg h => h ▸ outside reg⟩

/-- An access that touches no register leads to the latches. -/
theorem onChipPlace_latches {off bytes : Nat} (hb : 0 < bytes)
    (h : ∀ k < bytes, ∀ reg : IntcReg, ¬ (reg.offset ≤ off + k ∧ off + k < reg.offset + reg.bytes)) :
    onChipPlace off bytes = .latches := by
  have untouched : (intcTable.find? fun r => off < r.offset + r.bytes && r.offset < off + bytes) = none := by
    refine List.find?_eq_none.mpr fun reg _ touched => ?_
    simp only [Bool.and_eq_true, decide_eq_true_eq] at touched
    have positive : 0 < reg.bytes := by cases reg <;> decide
    exact h (reg.offset - off) (by omega) reg (by omega)
  unfold onChipPlace
  rw [untouched]

theorem onChipOffset_add {a : Word} {k : Nat} (start : 0xFFFFFE00 ≤ a.toNat) (hk : a.toNat + k < 2 ^ 32) :
    onChipOffset (a + BitVec.ofNat 32 k) = onChipOffset a + k := by
  unfold onChipOffset
  rw [BitVec.toNat_add, BitVec.toNat_ofNat]
  omega

/-- The bytes from an address on are latches, and the last of them is in the address space. -/
structure LatchSpan (a : Word) (bytes : Nat) : Prop where
  start : 0xFFFFFE00 ≤ a.toNat
  room : a.toNat + bytes ≤ 2 ^ 32
  latches : ∀ k < bytes, onChipLatch (a + BitVec.ofNat 32 k) = true

theorem LatchSpan.of_aligned {a : Word} {n : Nat} (hn : n ∣ 2 ^ 32) (pos : 0 < n) (aligned : a.toNat % n = 0)
    (h : ∀ k < n, onChipLatch (a + BitVec.ofNat 32 k) = true) : LatchSpan a n where
  start := by simpa using (onChipLatch_iff.mp (h 0 pos)).1
  room := by
    obtain ⟨q, hq⟩ := Nat.dvd_of_mod_eq_zero aligned
    obtain ⟨r, hr⟩ := hn
    have below : n * q < n * r := hr ▸ hq ▸ a.isLt
    calc a.toNat + n = n * (q + 1) := by rw [hq, Nat.mul_succ]
      _ ≤ n * r := Nat.mul_le_mul_left n (Nat.lt_of_mul_lt_mul_left below)
      _ = 2 ^ 32 := hr.symm
  latches := h

theorem LatchSpan.place {a : Word} {bytes : Nat} (h : LatchSpan a bytes) (pos : 0 < bytes) :
    onChipPlace (onChipOffset a) bytes = .latches := by
  refine onChipPlace_latches pos fun k hk => ?_
  rw [← onChipOffset_add h.start (by have := h.room; omega)]
  exact (onChipLatch_iff.mp (h.latches k hk)).2

theorem LatchSpan.place_onChip {a : Word} {bytes : Nat} (h : LatchSpan a bytes) (s : State) :
    s.place a = .onChip (onChipOffset a) :=
  s.place_onChip h.start

theorem LatchSpan.one {a : Word} (h : onChipLatch a = true) : LatchSpan a 1 :=
  .of_aligned (by decide) (by decide) (Nat.mod_one _) fun k hk => by
    obtain rfl : k = 0 := by omega
    simpa using h

section
variable {s : State} {a : Word} {off : Nat} (place : s.place a = .onChip off)
include place

theorem memRead8_latches (latches : onChipPlace off 1 = .latches) :
    memRead8 a s = .next (s.cpu.onChip.read off, s) := by
  simp [memRead8, busRead8, place, latches, State.cpu]

theorem memRead16_latches (aligned : a.toNat % 2 = 0) (latches : onChipPlace off 2 = .latches) :
    memRead16 a s = .next (s.cpu.onChip.read16 off, s) := by
  simp [memRead16, busRead16, aligned, place, latches, State.cpu]

theorem memRead32_latches (aligned : a.toNat % 4 = 0) (latches : onChipPlace off 4 = .latches) :
    memRead32 a s = .next (s.cpu.onChip.read32 off, s) := by
  simp [memRead32, busRead32, aligned, place, latches, State.cpu]

theorem memWrite8_latches (v : Byte) (latches : onChipPlace off 1 = .latches) :
    memWrite8 a v s = .next (s.updateOnChip s.active fun m => m.write off v) := by
  simp [memWrite8, busWrite8, place, latches]

theorem memWrite16_latches (v : Half) (aligned : a.toNat % 2 = 0) (latches : onChipPlace off 2 = .latches) :
    memWrite16 a v s = .next (s.updateOnChip s.active fun m => m.write16 off v) := by
  simp [memWrite16, aligned, place, latches]

theorem memWrite32_latches (v : Word) (aligned : a.toNat % 4 = 0) (latches : onChipPlace off 4 = .latches) :
    memWrite32 a v s = .next (s.updateOnChip s.active fun m => m.write32 off v) := by
  simp [memWrite32, aligned, place, latches]

end

/-- The byte of a latch. -/
theorem memRead8_latch {a : Word} (h : onChipLatch a = true) (s : State) :
    memRead8 a s = .next (s.cpu.onChip.read (onChipOffset a), s) :=
  have span := LatchSpan.one h
  memRead8_latches (span.place_onChip s) (span.place (by decide))

@[simp] theorem State.updateOnChip_cpu (s : State) (f : Memory → Memory) :
    (s.updateOnChip s.active f).cpu = { s.cpu with onChip := f s.cpu.onChip } :=
  State.mapCpu_cpu s fun c => { c with onChip := f c.onChip }

theorem sameOutside_updateOnChip (s : State) (f : Memory → Memory) : SameOutside s (s.updateOnChip s.active f) :=
  sameOutside_mapCpu s fun c => { c with onChip := f c.onChip }

/-- The memory reads as before but for some bytes from an address on. -/
def ChangesOnly (off bytes : Nat) (m m' : Memory) : Prop :=
  ∀ q, ¬ (off ≤ q ∧ q < off + bytes) → m'.read q = m.read q

theorem Memory.write_changesOnly (m : Memory) (off : Nat) (v : Byte) : ChangesOnly off 1 m (m.write off v) := by
  intro q outside
  rw [Memory.read_write, if_neg (by omega)]

theorem Memory.write16_changesOnly (m : Memory) (off : Nat) (v : Half) : ChangesOnly off 2 m (m.write16 off v) := by
  intro q outside
  rw [Memory.read_write16, if_neg (by omega), if_neg (by omega)]

theorem Memory.write32_changesOnly (m : Memory) (off : Nat) (v : Word) : ChangesOnly off 4 m (m.write32 off v) := by
  intro q outside
  rw [Memory.read_write32, if_neg (by omega), if_neg (by omega), if_neg (by omega), if_neg (by omega)]

theorem Memory.read16_write16 (m : Memory) (off : Nat) (v : Half) : (m.write16 off v).read16 off = v := by
  have bytes : v.extractLsb' 8 8 ++ v.extractLsb' 0 8 = v := by
    rw [BitVec.extractLsb'_append_extractLsb'_eq_extractLsb' (show 8 = 0 + 8 from rfl)]
    exact BitVec.extractLsb'_eq_self
  simpa [Memory.read16, Memory.read_write16] using bytes

theorem Memory.read32_write32 (m : Memory) (off : Nat) (v : Word) : (m.write32 off v).read32 off = v := by
  have bytes : v.extractLsb' 24 8 ++ v.extractLsb' 16 8 ++ v.extractLsb' 8 8 ++ v.extractLsb' 0 8 = v := by
    rw [BitVec.extractLsb'_append_extractLsb'_eq_extractLsb' (show 24 = 16 + 8 from rfl),
      BitVec.extractLsb'_append_extractLsb'_eq_extractLsb' (show 16 = 8 + 8 from rfl),
      BitVec.extractLsb'_append_extractLsb'_eq_extractLsb' (show 8 = 0 + 8 from rfl)]
    exact BitVec.extractLsb'_eq_self
  simpa [Memory.read32, Memory.read_write32] using bytes

/-- Byte `k` of a 32-bit store, the most significant first. -/
theorem Memory.read_write32_byte (m : Memory) (off : Nat) (v : Word) {k : Nat} (hk : k < 4) :
    (m.write32 off v).read (off + k) = v.extractLsb' (8 * (3 - k)) 8 := by
  rw [Memory.read_write32]
  interval_cases k <;> simp

/-- A latch outside the bytes of a store reads as before. -/
theorem LatchSpan.memRead8_outside {s : State} {a b : Word} {bytes : Nat} {f : Memory → Memory} {x : Byte}
    (h : LatchSpan a bytes) (hf : ChangesOnly (onChipOffset a) bytes s.cpu.onChip (f s.cpu.onChip))
    (hb : onChipLatch b = true) (outside : ∀ k < bytes, b ≠ a + BitVec.ofNat 32 k)
    (read : memRead8 b s = .next (x, s)) :
    memRead8 b (s.updateOnChip s.active f) = .next (x, s.updateOnChip s.active f) := by
  have startA := h.start
  have startB := (LatchSpan.one hb).start
  have apart : ¬ (onChipOffset a ≤ onChipOffset b ∧ onChipOffset b < onChipOffset a + bytes) := by
    unfold onChipOffset
    intro inside
    refine outside (b.toNat - a.toNat) (by omega) (BitVec.eq_of_toNat_eq ?_)
    rw [BitVec.toNat_add, BitVec.toNat_ofNat]
    omega
  rw [memRead8_latch hb] at read
  cases read
  rw [memRead8_latch hb, State.updateOnChip_cpu, hf _ apart]

/-! ### Stores and the loads after them -/

/-- A store to a 16-bit register. -/
theorem intcHalf_store (s : State) {a : Word} {m : Half} (h : Half) (mem : (a, m) ∈ intcHalves) :
    ∃ t, memWrite16 a h s = .next t ∧ SameOutside s t ∧ t.cpu = { s.cpu with intc := t.cpu.intc } ∧
      memRead16 a t = .next ((h &&& m) ||| (if a = 0xFFFFFEE0 ∧ s.cpu.nmiPin = true then 0x8000 else 0), t) ∧
      (∀ b ∈ intcHalves.map Prod.fst, b ≠ a → ∀ x, memRead16 b s = .next (x, s) → memRead16 b t = .next (x, t)) ∧
      (∀ b ∈ intcWords, ∀ x, memRead32 b s = .next (x, s) → memRead32 b t = .next (x, t)) := by
  obtain ⟨reg, hreg, rfl, rfl⟩ := mem_intcHalves mem
  refine ⟨_, memWrite16_intc s h hreg, sameOutside_mapCpu s _, ?_, ?_, fun b hb other x read => ?_, fun b hb x read => ?_⟩
  · rw [State.mapCpu_cpu]
    exact s.cpu.writeIntc16_frame reg h
  · rw [memRead16_intc _ hreg, State.mapCpu_cpu, Cpu.readIntc16_writeIntc16_same _ h hreg]
  · obtain ⟨⟨b, k⟩, row, rfl⟩ := List.mem_map.mp hb
    obtain ⟨r, hr, rfl, rfl⟩ := mem_intcHalves row
    have same := (s.cpu.readIntc16_writeIntc16 reg r h).trans (if_neg (ne_of_apply_ne IntcReg.address other))
    exact memRead16_intc_mapCpu hr same read
  · obtain ⟨r, hr, rfl⟩ := mem_intcWords hb
    exact memRead32_intc_mapCpu hr (s.cpu.readIntc32_writeIntc16 reg r h) read

/-- A store to a 32-bit register. -/
theorem intcWord_store (s : State) {a : Word} (w : Word) (mem : a ∈ intcWords) :
    ∃ t, memWrite32 a w s = .next t ∧ SameOutside s t ∧ t.cpu = { s.cpu with intc := t.cpu.intc } ∧
      memRead32 a t = .next (w, t) ∧
      (∀ b ∈ intcHalves.map Prod.fst, ∀ x, memRead16 b s = .next (x, s) → memRead16 b t = .next (x, t)) ∧
      (∀ b ∈ intcWords, b ≠ a → ∀ x, memRead32 b s = .next (x, s) → memRead32 b t = .next (x, t)) := by
  obtain ⟨reg, hreg, rfl⟩ := mem_intcWords mem
  refine ⟨_, memWrite32_intc s w hreg, sameOutside_mapCpu s _, ?_, ?_, fun b hb x read => ?_, fun b hb other x read => ?_⟩
  · rw [State.mapCpu_cpu]
    exact s.cpu.writeIntc32_frame reg w
  · rw [memRead32_intc _ hreg, State.mapCpu_cpu, Cpu.readIntc32_writeIntc32, if_pos ⟨rfl, hreg⟩]
  · obtain ⟨⟨b, k⟩, row, rfl⟩ := List.mem_map.mp hb
    obtain ⟨r, hr, rfl, rfl⟩ := mem_intcHalves row
    exact memRead16_intc_mapCpu hr (s.cpu.readIntc16_writeIntc32 reg r w) read
  · obtain ⟨r, hr, rfl⟩ := mem_intcWords hb
    have ne : r ≠ reg := ne_of_apply_ne IntcReg.address other
    have same := (s.cpu.readIntc32_writeIntc32 reg r w).trans (if_neg fun both => ne both.1)
    exact memRead32_intc_mapCpu hr same read

/-- A byte store to a latch. -/
theorem latch_store8 (s : State) {a : Word} (v : Byte) (latch : onChipLatch a = true) :
    ∃ t, memWrite8 a v s = .next t ∧ SameOutside s t ∧ t.cpu = { s.cpu with onChip := t.cpu.onChip } ∧
      memRead8 a t = .next (v, t) ∧
      ∀ b, onChipLatch b = true → b ≠ a → ∀ x, memRead8 b s = .next (x, s) → memRead8 b t = .next (x, t) := by
  have span := LatchSpan.one latch
  refine ⟨_, memWrite8_latches (span.place_onChip s) v (span.place (by decide)), sameOutside_updateOnChip s _, ?_, ?_,
    fun b hb other x read => ?_⟩
  · rw [State.updateOnChip_cpu]
  · rw [memRead8_latch latch, State.updateOnChip_cpu, Memory.read_write_same]
  · refine span.memRead8_outside (Memory.write_changesOnly _ _ v) hb (fun k hk => ?_) read
    obtain rfl : k = 0 := by omega
    simpa using other

/-- A 16-bit store to two latches. -/
theorem latch_store16 (s : State) {a : Word} (h : Half) (aligned : a.toNat % 2 = 0) (latch : onChipLatch a = true)
    (latch' : onChipLatch (a + 1) = true) :
    ∃ t, memWrite16 a h s = .next t ∧ SameOutside s t ∧ t.cpu = { s.cpu with onChip := t.cpu.onChip } ∧
      memRead16 a t = .next (h, t) ∧ memRead8 a t = .next (h.extractLsb' 8 8, t) ∧
      memRead8 (a + 1) t = .next (h.extractLsb' 0 8, t) ∧
      ∀ b, onChipLatch b = true → b ≠ a → b ≠ a + 1 → ∀ x, memRead8 b s = .next (x, s) →
        memRead8 b t = .next (x, t) := by
  have span : LatchSpan a 2 := .of_aligned (by decide) (by decide) aligned fun k hk => by
    interval_cases k
    · simpa using latch
    · exact latch'
  have place := span.place (by decide)
  have next : onChipOffset (a + 1) = onChipOffset a + 1 :=
    onChipOffset_add (k := 1) span.start (by have := span.room; omega)
  refine ⟨_, memWrite16_latches (span.place_onChip s) h aligned place, sameOutside_updateOnChip s _, ?_, ?_, ?_, ?_,
    fun b hb other other' x read => ?_⟩
  · rw [State.updateOnChip_cpu]
  · rw [memRead16_latches (span.place_onChip _) aligned place, State.updateOnChip_cpu, Memory.read16_write16]
  · rw [memRead8_latch latch, State.updateOnChip_cpu]
    simp [Memory.read_write16]
  · rw [memRead8_latch latch', State.updateOnChip_cpu, next]
    simp [Memory.read_write16]
  · refine span.memRead8_outside (Memory.write16_changesOnly _ _ h) hb (fun k hk => ?_) read
    interval_cases k
    · simpa using other
    · exact other'

/-- A 32-bit store to four latches. -/
theorem latch_store32 (s : State) {a : Word} (w : Word) (aligned : a.toNat % 4 = 0)
    (latches : ∀ k < 4, onChipLatch (a + BitVec.ofNat 32 k) = true) :
    ∃ t, memWrite32 a w s = .next t ∧ SameOutside s t ∧ t.cpu = { s.cpu with onChip := t.cpu.onChip } ∧
      memRead32 a t = .next (w, t) ∧
      (∀ k < 4, memRead8 (a + BitVec.ofNat 32 k) t = .next (w.extractLsb' (8 * (3 - k)) 8, t)) ∧
      ∀ b, onChipLatch b = true → (∀ k < 4, b ≠ a + BitVec.ofNat 32 k) →
        ∀ x, memRead8 b s = .next (x, s) → memRead8 b t = .next (x, t) := by
  have span : LatchSpan a 4 := .of_aligned (by decide) (by decide) aligned latches
  have place := span.place (by decide)
  refine ⟨_, memWrite32_latches (span.place_onChip s) w aligned place, sameOutside_updateOnChip s _, ?_, ?_,
    fun k hk => ?_, fun b hb outside x read => ?_⟩
  · rw [State.updateOnChip_cpu]
  · rw [memRead32_latches (span.place_onChip _) aligned place, State.updateOnChip_cpu, Memory.read32_write32]
  · rw [memRead8_latch (latches k hk), State.updateOnChip_cpu,
      onChipOffset_add span.start (by have := span.room; omega), Memory.read_write32_byte _ _ _ hk]
  · exact span.memRead8_outside (Memory.write32_changesOnly _ _ w) hb outside read

end Sys2Proof.Machine

namespace Sys2Proof.Proofs

open Sys2Proof.Machine

/-- Settles O44: the registers at their own width, then the latches at each of the three widths. -/
theorem interruptControllerLatches : Obligations.interrupt_controller_latches := fun s _ w h _ v =>
  ⟨intcHalf_store s h, intcWord_store s w, latch_store8 s v, latch_store16 s h, latch_store32 s w⟩

end Sys2Proof.Proofs
end

section
/-!
SUPPORT. The canonical form of the memories: the primitive changes of a step write bytes or leave the memories alone, and
the host's calls leave storage alone and can only empty an on-chip block.
-/

namespace Sys2Proof.Machine

/-! ### Memories in canonical form (R81, R86) -/

@[simp] theorem Cpu.sendInterrupt_onChip (c : Cpu) (d : Interrupt) : (c.sendInterrupt d).onChip = c.onChip := by
  unfold Cpu.sendInterrupt
  split
  · rfl
  · split <;> rfl

@[simp] theorem Cpu.returnFromInterrupt_onChip (c : Cpu) : c.returnFromInterrupt.onChip = c.onChip := by
  unfold Cpu.returnFromInterrupt
  split <;> rfl

@[simp] theorem Cpu.writeIntc16_onChip (c : Cpu) (reg : IntcReg) (v : Half) : (c.writeIntc16 reg v).onChip = c.onChip := by
  rw [c.writeIntc16_frame reg v]

@[simp] theorem Cpu.writeIntc32_onChip (c : Cpu) (reg : IntcReg) (v : Word) : (c.writeIntc32 reg v).onChip = c.onChip := by
  rw [c.writeIntc32_frame reg v]

/-- Changing one CPU keeps the canonical form if its latches stay in canonical form. -/
theorem State.memoryCanonical_mapCpuOf {s : State} {c : CpuId} {f : Cpu → Cpu}
    (hf : ∀ cpu : Cpu, cpu.onChip.wf = true → (f cpu).onChip.wf = true) (h : s.memoryCanonical) :
    (s.mapCpuOf c f).memoryCanonical := by
  obtain ⟨storage, master, slave⟩ := h
  cases c
  · exact ⟨storage, hf _ master, slave⟩
  · exact ⟨storage, master, hf _ slave⟩

/-- A change of the active CPU that leaves its latches alone. -/
theorem State.memoryCanonical_mapCpu {s : State} {f : Cpu → Cpu} (hf : (f s.cpu).onChip = s.cpu.onChip)
    (h : s.memoryCanonical) : (s.mapCpu f).memoryCanonical := by
  rcases s with ⟨_, _, active, _⟩
  obtain ⟨storage, master, slave⟩ := h
  cases active
  · exact ⟨storage, hf.symm ▸ master, slave⟩
  · exact ⟨storage, master, hf.symm ▸ slave⟩

theorem State.scuRaise_memoryCanonical {s : State} (src : ScuSource) (h : s.memoryCanonical) :
    (s.scuRaise src).memoryCanonical := by
  obtain ⟨storage, master, slave⟩ := h
  rw [State.scuRaise_effect]
  refine ⟨storage, ?_, slave⟩
  dsimp only
  split
  · exact master
  · rwa [Cpu.sendInterrupt_onChip]

theorem kept_memoryCanonical : Kept State.memoryCanonical where
  cpu _ _ same := State.memoryCanonical_mapCpu same.onChip
  mem _ p v h := ⟨Memory.write_wf p v h.1, h.2⟩
  onChip _ off v := State.memoryCanonical_mapCpuOf fun _ => Memory.write_wf off v
  intc16 s reg v := State.memoryCanonical_mapCpu (s.cpu.writeIntc16_onChip reg v)
  intc32 s reg v := State.memoryCanonical_mapCpu (s.cpu.writeIntc32_onChip reg v)
  cdRead _ h := h
  cdWrite _ _ _ h := h
  scuWrite _ _ _ h := h
  enqueue _ _ h := h
  dequeue _ _ _ _ h := h
  channel _ _ _ _ h := h
  raise _ src := State.scuRaise_memoryCanonical src
  halt _ _ h := h
  leave s := State.memoryCanonical_mapCpu s.cpu.returnFromInterrupt_onChip

theorem keptByHost_memoryCanonical : KeptByHost State.memoryCanonical where
  inputs _ _ h := h
  active _ _ h := h
  cdRun _ _ h := h
  release _ _ h := h
  send _ _ d := State.memoryCanonical_mapCpuOf fun cpu hc => (cpu.sendInterrupt_onChip d).symm ▸ hc
  pin _ _ _ := State.memoryCanonical_mapCpuOf fun _ hc => hc
  resetScu _ h := h
  resetCd _ h := h
  powerOn _ _ _ _ _ _ :=
    State.memoryCanonical_mapCpuOf (f := fun cpu => cpu.powerOn _ _ _) fun _ _ => Memory.empty_wf
  resume _ h := h

/-- Taking an interrupt touches the pending list and the entry's own fields, and not the latches. -/
theorem cpuStep_memoryCanonical {s : State} (h : s.memoryCanonical) : Ends State.memoryCanonical (cpuStep s) :=
  kept_memoryCanonical.cpuStep (Q := fun _ => State.memoryCanonical) (fun _ => kept_memoryCanonical)
    (fun _ _ _ => State.memoryCanonical_mapCpu rfl) (fun _ _ => State.memoryCanonical_mapCpu rfl) h

end Sys2Proof.Machine

namespace Sys2Proof.Proofs

open Sys2Proof.Machine

/-- Settles O39: memories change by byte writes alone, which keep the canonical form, or are emptied by a reset. -/
theorem memoryInvariantKept : Obligations.memory_invariant_kept := fun _ _ canonical next =>
  (kept_memoryCanonical.step keptByHost_memoryCanonical (fun _ => cpuStep_memoryCanonical) canonical).of_next next

end Sys2Proof.Proofs
end

section
/-!
SUPPORT. The memory bus: where an address leads (R96, R97), and what an access does at each kind of place (R83 to R88).
-/

namespace Sys2Proof.Machine

/-! ### The address spaces (R97) -/

/-- The spaces 000 and 001 are the first 2^30 addresses. -/
theorem mirroredSpace_iff (a : Word) :
    (a.extractLsb' 29 3 = 0#3 ∨ a.extractLsb' 29 3 = 1#3) ↔ a.toNat < 0x40000000 := by
  simp only [← BitVec.toNat_inj, BitVec.extractLsb'_toNat, BitVec.toNat_ofNat, Nat.shiftRight_eq_div_pow]
  omega

/-- In the mirrored spaces the low 27 bits are the physical address. -/
theorem State.place_mirrored (s : State) {a : Word} (h : a.toNat < 0x40000000) :
    s.place a = physicalPlace s.config (a.toNat % 2 ^ 27) := by
  have low : (a &&& 0x07FFFFFF).toNat = a.toNat % 2 ^ 27 := by
    rw [BitVec.toNat_and, ← Nat.and_two_pow_sub_one_eq_mod]
    rfl
  rw [← low]
  exact if_pos ((mirroredSpace_iff a).mpr h)

theorem State.place_unmappedSpace (s : State) {a : Word} (lo : 0x40000000 ≤ a.toNat) (hi : a.toNat < 0xE0000000) :
    s.place a = .unmapped :=
  (if_neg ((mirroredSpace_iff a).not.mpr (by omega))).trans (if_neg (by omega))

/-- Adding 2^29 to an address of space 000 changes nothing but the space. -/
theorem State.place_mirror (s : State) {a : Word} (h : a.toNat < 0x20000000) : s.place (a + 0x20000000) = s.place a := by
  have sum : (a + 0x20000000).toNat = a.toNat + 2 ^ 27 * 4 := by bv_omega
  rw [s.place_mirrored (by omega), s.place_mirrored (by omega), sum, Nat.add_mul_mod_self_left]

/-! ### The default map (R96) -/

/-- In a table whose rows rise and do not overlap, a row that contains an address is the row found for it. -/
theorem findRegion_of_mem {map : List Region} {r : Region} {addr : Nat}
    (rising : map.Pairwise fun q r => q.last < r.first) (mem : r ∈ map) (lo : r.first ≤ addr) (hi : addr ≤ r.last) :
    findRegion map addr = some r := by
  induction map with
  | nil => cases mem
  | cons q map ih =>
    obtain ⟨before, rising⟩ := List.pairwise_cons.mp rising
    unfold findRegion
    rcases List.mem_cons.mp mem with rfl | mem
    · exact List.find?_cons_of_pos (by simp [lo, hi])
    · have below := before r mem
      rw [List.find?_cons_of_neg (by simp only [Bool.and_eq_true, decide_eq_true_eq]; omega)]
      exact ih rising mem

theorem defaultMemMap_rising : defaultMemMap.Pairwise fun q r => q.last < r.first := by decide

theorem defaultMemMap_last_lt : ∀ r ∈ defaultMemMap, r.last < 0x06100000 := by decide

/-- Where a row of the table leads. -/
def regionPlace (p : Params) (r : Region) (addr : Nat) : Place :=
  match r.kind with
  | .rom        => .storage addr false
  | .ram        => .storage addr true
  | .external d => .external d
  | .cdBlock    => .cdBlock (addr - p.cdBase)
  | .scu        => .scu (addr - r.first)

theorem physicalPlace_of_findRegion {p : Params} {addr : Nat} {r : Region} (h : findRegion p.memMap addr = some r) :
    physicalPlace p addr = regionPlace p r addr := by
  unfold physicalPlace
  rw [h]
  rfl

theorem physicalPlace_of_findRegion_none {p : Params} {addr : Nat} (h : findRegion p.memMap addr = none) :
    physicalPlace p addr = .unmapped := by
  unfold physicalPlace
  rw [h]

section
variable {s : State} (mapped : s.config.memMap = defaultMemMap)
include mapped

/-- An address in a row of the default map leads where the row leads. -/
theorem State.place_of_row (first last : Nat) (kind : RegionKind) {a : Word} (mem : ⟨first, last, kind⟩ ∈ defaultMemMap)
    (lo : first ≤ a.toNat) (hi : a.toNat ≤ last) : s.place a = regionPlace s.config ⟨first, last, kind⟩ a.toNat := by
  have bound : last < 0x06100000 := defaultMemMap_last_lt _ mem
  rw [s.place_mirrored (by omega), Nat.mod_eq_of_lt (by omega)]
  exact physicalPlace_of_findRegion (mapped ▸ findRegion_of_mem defaultMemMap_rising mem lo hi)

/-- No row of the default map lies above high work RAM. -/
theorem State.place_above_map {a : Word} (lo : 0x06100000 ≤ a.toNat) (hi : a.toNat < 0x08000000) :
    s.place a = .unmapped := by
  rw [s.place_mirrored (by omega), Nat.mod_eq_of_lt (by omega)]
  refine physicalPlace_of_findRegion_none (mapped ▸ List.find?_eq_none.mpr fun r mem => ?_)
  have bound := defaultMemMap_last_lt r mem
  simp only [Bool.and_eq_true, decide_eq_true_eq]
  omega

end

/-! ### Accesses at one kind of place (R84 to R88) -/

theorem memRead8_storage {s : State} {a : Word} {p : Nat} {w : Bool} (place : s.place a = .storage p w) :
    memRead8 a s = .next (s.mem.read p, s) :=
  memRead8_plain (by simp [plainByte, place])

theorem memRead16_storage {s : State} {a : Word} {p : Nat} {w : Bool} (place : s.place a = .storage p w)
    (aligned : a.toNat % 2 = 0) : memRead16 a s = .next (s.mem.read16 p, s) :=
  memRead16_plain (by simp [plainHalf, place, aligned, Memory.read16])

theorem memRead32_storage {s : State} {a : Word} {p : Nat} {w : Bool} (place : s.place a = .storage p w)
    (aligned : a.toNat % 4 = 0) : memRead32 a s = .next (s.mem.read32 p, s) :=
  memRead32_plain (by simp [plainLong, place, aligned, Memory.read32])

/-- A read of an unmapped address returns 0 and changes nothing (R87). -/
theorem memRead_unmapped {s : State} {a : Word} (place : s.place a = .unmapped) :
    memRead8 a s = .next (0, s) ∧ (a.toNat % 2 = 0 → memRead16 a s = .next (0, s)) ∧
      (a.toNat % 4 = 0 → memRead32 a s = .next (0, s)) :=
  ⟨memRead8_plain (by simp [plainByte, place]), fun aligned => memRead16_plain (by simp [plainHalf, place, aligned]),
    fun aligned => memRead32_plain (by simp [plainLong, place, aligned])⟩

/-- A write to an unmapped or read-only address changes nothing (R87). -/
theorem memWrite_dropped {s : State} {a : Word} (place : s.place a = .unmapped ∨ ∃ p, s.place a = .storage p false) :
    (∀ v, memWrite8 a v s = .next s) ∧ (∀ v, a.toNat % 2 = 0 → memWrite16 a v s = .next s) ∧
      (∀ v, a.toNat % 4 = 0 → memWrite32 a v s = .next s) := by
  rcases place with place | ⟨p, place⟩
  · refine ⟨fun v => ?_, fun v aligned => ?_, fun v aligned => ?_⟩
    · simp [memWrite8, busWrite8, place]
    · simp [memWrite16, place, aligned]
    · simp [memWrite32, place, aligned]
  · refine ⟨fun v => ?_, fun v aligned => ?_, fun v aligned => ?_⟩
    · simp [memWrite8, busWrite8, place, State.updateStorage]
    · simp [memWrite16, place, aligned, State.updateStorage]
    · simp [memWrite32, place, aligned, State.updateStorage]

/-- The SCU's registers are refused at 8 and 16 bits (R88). -/
theorem scu_narrow_refused {s : State} {a : Word} {off : Nat} (place : s.place a = .scu off) :
    memRead8 a s = .refused (.deviceWidth a 1) ∧ (∀ v, memWrite8 a v s = .refused (.deviceWidth a 1)) ∧
      (a.toNat % 2 = 0 → memRead16 a s = .refused (.deviceWidth a 2) ∧
        ∀ v, memWrite16 a v s = .refused (.deviceWidth a 2)) := by
  refine ⟨?_, fun v => ?_, fun aligned => ⟨?_, fun v => ?_⟩⟩
  · simp [memRead8, busRead8, place]
  · simp [memWrite8, busWrite8, place]
  · simp [memRead16, busRead16, place, aligned]
  · simp [memWrite16, place, aligned]

/-- An access that starts at a register of the CD block touches it. -/
theorem cdTouched_register {off bytes : Nat} (register : off ∈ [0x90008, 0x9000C, 0x90018, 0x9001C, 0x90020, 0x90024])
    (pos : 0 < bytes) : cdTouched off bytes = true := by
  refine List.any_eq_true.mpr ⟨off, register, ?_⟩
  simpa using pos

/-- The CD block's registers are refused at 8 and 32 bits (R88). -/
theorem cdBlock_width_refused {s : State} {a : Word} {off : Nat} (place : s.place a = .cdBlock off)
    (register : off ∈ [0x90008, 0x9000C, 0x90018, 0x9001C, 0x90020, 0x90024]) :
    memRead8 a s = .refused (.deviceWidth a 1) ∧ (∀ v, memWrite8 a v s = .refused (.deviceWidth a 1)) ∧
      (a.toNat % 4 = 0 → memRead32 a s = .refused (.deviceWidth a 4) ∧
        ∀ v, memWrite32 a v s = .refused (.deviceWidth a 4)) := by
  have byte : cdTouched off 1 = true := cdTouched_register register (by decide)
  have long : cdTouched off 4 = true := cdTouched_register register (by decide)
  refine ⟨?_, fun v => ?_, fun aligned => ⟨?_, fun v => ?_⟩⟩
  · simp [memRead8, busRead8, place, byte]
  · simp [memWrite8, busWrite8, place, byte]
  · simp [memRead32, busRead32, place, aligned, long]
  · simp [memWrite32, place, aligned, long]

/-! ### A longword read by halves (R83) -/

theorem Memory.read16_write32_high (m : Memory) (p : Nat) (v : Word) :
    (m.write32 p v).read16 p = v.extractLsb' 16 16 := by
  have bytes : v.extractLsb' 24 8 ++ v.extractLsb' 16 8 = v.extractLsb' 16 16 :=
    BitVec.extractLsb'_append_extractLsb'_eq_extractLsb' (show 24 = 16 + 8 from rfl)
  simpa [Memory.read16, Memory.read_write32] using bytes

theorem Memory.read16_write32_low (m : Memory) (p : Nat) (v : Word) :
    (m.write32 p v).read16 (p + 2) = v.extractLsb' 0 16 := by
  have bytes : v.extractLsb' 8 8 ++ v.extractLsb' 0 8 = v.extractLsb' 0 16 :=
    BitVec.extractLsb'_append_extractLsb'_eq_extractLsb' (show 8 = 0 + 8 from rfl)
  have apart : p + 2 + 1 ≠ p := by omega
  simpa [Memory.read16, Memory.read_write32, apart] using bytes

end Sys2Proof.Machine

namespace Sys2Proof.Proofs

open Sys2Proof.Machine

/-- Settles O41: every load reads the bytes that the store left, most significant first. -/
theorem mixedWidthIsBigEndian : Obligations.mixed_width_is_big_endian := by
  intro s a v p aligned place place1 place2
  have even : a.toNat % 2 = 0 := by omega
  have even2 : (a + 2).toNat % 2 = 0 := by bv_omega
  refine ⟨_, memWrite32_storage v aligned place, ?_, ?_, ?_, ?_, ?_⟩
  · rw [memRead32_storage (s := { s with mem := s.mem.write32 p v }) place aligned, Memory.read32_write32]
  · rw [memRead8_storage (s := { s with mem := s.mem.write32 p v }) place]
    simp [Memory.read_write32]
  · rw [memRead8_storage (s := { s with mem := s.mem.write32 p v }) place1]
    simp [Memory.read_write32]
  · rw [memRead16_storage (s := { s with mem := s.mem.write32 p v }) place even, Memory.read16_write32_high]
  · rw [memRead16_storage (s := { s with mem := s.mem.write32 p v }) place2 even2, Memory.read16_write32_low]

/-- Settles O43: the three kinds of address space, and then the rows of the default map. -/
theorem addressMap : Obligations.address_map := fun s a =>
  ⟨s.place_mirror, s.place_unmappedSpace, s.place_onChip, fun mapped =>
    ⟨fun hi => State.place_of_row mapped 0x00000000 0x000FFFFF .rom (by decide) (Nat.zero_le _) (by omega),
      fun lo hi => State.place_of_row mapped 0x00200000 0x002FFFFF .ram (by decide) lo (by omega),
      fun lo hi => State.place_of_row mapped 0x06000000 0x060FFFFF .ram (by decide) lo (by omega),
      fun lo hi => State.place_of_row mapped 0x05800000 0x058FFFFF .cdBlock (by decide) lo (by omega),
      fun lo hi => State.place_of_row mapped 0x05FE0000 0x05FE00CF .scu (by decide) lo (by omega),
      State.place_above_map mapped⟩⟩

/-- Settles O42, one place after the other. -/
theorem unmappedRomAndDeviceWidths : Obligations.unmapped_rom_and_device_widths := fun _ _ _ =>
  ⟨memRead_unmapped, memWrite_dropped, scu_narrow_refused, cdBlock_width_refused⟩

end Sys2Proof.Proofs
end

section
/-!
SUPPORT. The misaligned accesses of the instructions (R90): each shared operation that accesses memory first stops with
the access's fault, and a scaled displacement or a push does not mend a misaligned base.
-/

namespace Sys2Proof.Machine

/-! ### The shared operations -/

theorem loadWord_misaligned {s : State} {a : Word} {n : Reg} (h : a.toNat % 2 ≠ 0) :
    loadWord a n s = .fault (.misalignedAccess a 2) := by
  rw [loadWord, memRead16_misaligned h, andThen_fault]

theorem loadLong_misaligned {s : State} {a : Word} {n : Reg} (h : a.toNat % 4 ≠ 0) :
    loadLong a n s = .fault (.misalignedAccess a 4) := by
  rw [loadLong, memRead32_misaligned h, andThen_fault]

theorem storeWord_misaligned {s : State} {a v : Word} (h : a.toNat % 2 ≠ 0) :
    storeWord a v s = .fault (.misalignedAccess a 2) := by
  rw [storeWord, memWrite16_misaligned h, andThen_fault]

theorem storeLong_misaligned {s : State} {a v : Word} (h : a.toNat % 4 ≠ 0) :
    storeLong a v s = .fault (.misalignedAccess a 4) := by
  rw [storeLong, memWrite32_misaligned h, andThen_fault]

theorem popWord_misaligned {s : State} {n : Reg} (h : (s.reg n).toNat % 2 ≠ 0) :
    popWord n s = .fault (.misalignedAccess (s.reg n) 2) := by
  rw [popWord, memRead16_misaligned h, andThen_fault]

theorem popLong_misaligned {s : State} {n : Reg} (h : (s.reg n).toNat % 4 ≠ 0) :
    popLong n s = .fault (.misalignedAccess (s.reg n) 4) := by
  rw [popLong, memRead32_misaligned h, andThen_fault]

theorem sub_two_misaligned {a : Word} (h : a.toNat % 2 ≠ 0) : (a - 2).toNat % 2 ≠ 0 := by
  bv_omega

theorem sub_four_misaligned {a : Word} (h : a.toNat % 4 ≠ 0) : (a - 4).toNat % 4 ≠ 0 := by
  bv_omega

theorem pushLong_misaligned {s : State} {n : Reg} {v : Word} (h : (s.reg n).toNat % 4 ≠ 0) :
    pushLong n v s = .fault (.misalignedAccess (s.reg n - 4) 4) := by
  rw [pushLong, memWrite32_misaligned (sub_four_misaligned h), andThen_fault]

theorem storePush_misaligned {s : State} {n : Reg} {v : Word} {row : CycleRow} (h : (s.reg n).toNat % 4 ≠ 0) :
    storePush n v row s = .fault (.misalignedAccess (s.reg n - 4) 4) := by
  rw [storePush, pushLong_misaligned h, andThen_fault]

theorem loadPop_misaligned {s : State} {m : Reg} {put : State → Word → State} {row : CycleRow}
    (h : (s.reg m).toNat % 4 ≠ 0) : loadPop m put row s = .fault (.misalignedAccess (s.reg m) 4) := by
  rw [loadPop, popLong_misaligned h, andThen_fault]

theorem takeException_misaligned {s : State} {vector : Byte} {pc : Word} {f : Cpu → Cpu} {cost : Nat}
    (h : (s.reg Reg.sp).toNat % 4 ≠ 0) :
    takeException vector pc f cost s = .fault (.misalignedAccess (s.reg Reg.sp - 4) 4) := by
  rw [takeException, pushFrameWord_eq, memWrite32_misaligned (sub_four_misaligned h), andThen_fault]

theorem captureRte_misaligned {s : State} (h : (s.reg Reg.sp).toNat % 4 ≠ 0) :
    captureRte s = .fault (.misalignedAccess (s.reg Reg.sp) 4) := by
  rw [captureRte, returnFromException, popLong_misaligned h, andThen_fault, andThen_fault]

/-! ### Scaled displacements -/

theorem mul_two_eq_shiftLeft (x : Word) : x * (2 : Word) = x <<< 1 :=
  (BitVec.shiftLeft_eq_mul_twoPow x 1).symm

theorem mul_four_eq_shiftLeft (x : Word) : x * (4 : Word) = x <<< 2 :=
  (BitVec.shiftLeft_eq_mul_twoPow x 2).symm

theorem eaDisp_two (n : Reg) (d : BitVec 4) (s : State) : eaDisp n d 2 s = s.reg n + (zext d <<< 1) := by
  rw [eaDisp, mul_two_eq_shiftLeft]

theorem eaDisp_four (n : Reg) (d : BitVec 4) (s : State) : eaDisp n d 4 s = s.reg n + (zext d <<< 2) := by
  rw [eaDisp, mul_four_eq_shiftLeft]

theorem eaGbr_two (d : Byte) (s : State) : eaGbr d 2 s = s.cpu.gbr + (zext d <<< 1) := by
  rw [eaGbr, mul_two_eq_shiftLeft]

theorem eaGbr_four (d : Byte) (s : State) : eaGbr d 4 s = s.cpu.gbr + (zext d <<< 2) := by
  rw [eaGbr, mul_four_eq_shiftLeft]

theorem add_shift_one_misaligned {a : Word} (x : Word) (h : a.toNat % 2 ≠ 0) : (a + (x <<< 1)).toNat % 2 ≠ 0 := by
  rw [BitVec.toNat_add, BitVec.toNat_shiftLeft, Nat.shiftLeft_eq]
  omega

theorem add_shift_two_misaligned {a : Word} (x : Word) (h : a.toNat % 4 ≠ 0) : (a + (x <<< 2)).toNat % 4 ≠ 0 := by
  rw [BitVec.toNat_add, BitVec.toNat_shiftLeft, Nat.shiftLeft_eq]
  omega

/-! ### The instructions with a misaligned base -/

/-- The word accesses through a register (R200 (e)). -/
theorem wordAccess_misaligned {s : State} (m n : Reg) (d : BitVec 4) (h : (s.reg m).toNat % 2 ≠ 0) :
    exec (.movwLoad m n) s = .fault (.misalignedAccess (s.reg m) 2) ∧
    exec (.movwPop m n) s = .fault (.misalignedAccess (s.reg m) 2) ∧
    exec (.movwStore n m) s = .fault (.misalignedAccess (s.reg m) 2) ∧
    exec (.movwPush n m) s = .fault (.misalignedAccess (s.reg m - 2) 2) ∧
    exec (.movwLoadDisp d m) s = .fault (.misalignedAccess (s.reg m + (zext d <<< 1)) 2) ∧
    exec (.movwStoreDisp d m) s = .fault (.misalignedAccess (s.reg m + (zext d <<< 1)) 2) := by
  have moved := add_shift_one_misaligned (zext d) h
  rw [← eaDisp_two] at moved ⊢
  refine ⟨loadWord_misaligned h, ?_, storeWord_misaligned h, ?_, loadWord_misaligned moved, storeWord_misaligned moved⟩
  · show execMovwPop m n s = _
    rw [execMovwPop, memRead16_misaligned h, andThen_fault]
  · show execMovwPush n m s = _
    rw [execMovwPush, memWrite16_misaligned (sub_two_misaligned h), andThen_fault]

/-- The longword accesses through a register (R200 (e)). -/
theorem longAccess_misaligned {s : State} (m n : Reg) (d : BitVec 4) (h : (s.reg m).toNat % 4 ≠ 0) :
    exec (.movlLoad m n) s = .fault (.misalignedAccess (s.reg m) 4) ∧
    exec (.movlPop m n) s = .fault (.misalignedAccess (s.reg m) 4) ∧
    exec (.movlStore n m) s = .fault (.misalignedAccess (s.reg m) 4) ∧
    exec (.movlPush n m) s = .fault (.misalignedAccess (s.reg m - 4) 4) ∧
    exec (.movlLoadDisp d m n) s = .fault (.misalignedAccess (s.reg m + (zext d <<< 2)) 4) ∧
    exec (.movlStoreDisp n d m) s = .fault (.misalignedAccess (s.reg m + (zext d <<< 2)) 4) := by
  have moved := add_shift_two_misaligned (zext d) h
  rw [← eaDisp_four] at moved ⊢
  refine ⟨loadLong_misaligned h, ?_, storeLong_misaligned h, ?_, loadLong_misaligned moved, storeLong_misaligned moved⟩
  · show execMovlPop m n s = _
    rw [execMovlPop, memRead32_misaligned h, andThen_fault]
  · show execMovlPush n m s = _
    rw [execMovlPush, pushLong_misaligned h, andThen_fault]

/-- The word accesses through GBR. -/
theorem gbrWord_misaligned {s : State} (d : Byte) (h : s.cpu.gbr.toNat % 2 ≠ 0) :
    exec (.movwLoadGbr d) s = .fault (.misalignedAccess (s.cpu.gbr + (zext d <<< 1)) 2) ∧
    exec (.movwStoreGbr d) s = .fault (.misalignedAccess (s.cpu.gbr + (zext d <<< 1)) 2) := by
  have moved := add_shift_one_misaligned (zext d) h
  rw [← eaGbr_two] at moved ⊢
  exact ⟨loadWord_misaligned moved, storeWord_misaligned moved⟩

/-- The longword accesses through GBR. -/
theorem gbrLong_misaligned {s : State} (d : Byte) (h : s.cpu.gbr.toNat % 4 ≠ 0) :
    exec (.movlLoadGbr d) s = .fault (.misalignedAccess (s.cpu.gbr + (zext d <<< 2)) 4) ∧
    exec (.movlStoreGbr d) s = .fault (.misalignedAccess (s.cpu.gbr + (zext d <<< 2)) 4) := by
  have moved := add_shift_two_misaligned (zext d) h
  rw [← eaGbr_four] at moved ⊢
  exact ⟨loadLong_misaligned moved, storeLong_misaligned moved⟩

theorem macL_misaligned {s : State} (m n : Reg) (h : (s.reg n).toNat % 4 ≠ 0) :
    exec (.macL m n) s = .fault (.misalignedAccess (s.reg n) 4) := by
  show execMacL m n s = _
  rw [execMacL, popLong_misaligned h, andThen_fault]

theorem macW_misaligned {s : State} (m n : Reg) (h : (s.reg n).toNat % 2 ≠ 0) :
    exec (.macW m n) s = .fault (.misalignedAccess (s.reg n) 2) := by
  show execMacW m n s = _
  rw [execMacW, popWord_misaligned h, andThen_fault]

theorem rte_misaligned {s : State} (h : (s.reg Reg.sp).toNat % 4 ≠ 0) :
    exec .rte s = .fault (.misalignedAccess (s.reg Reg.sp) 4) := by
  show delayedBranch captureRte s = _
  rw [delayedBranch, captureRte_misaligned h, andThen_fault]

end Sys2Proof.Machine

namespace Sys2Proof.Proofs

open Sys2Proof.Machine

/-- Settles O12: the first access of each instruction is at the misaligned address. -/
theorem misalignedAccessesFault : Obligations.misaligned_accesses_fault := by
  intro s m n d4 d8 a
  refine ⟨?_, ?_, ?_, ?_, ?_, ?_, ?_, ?_⟩
  · rintro odd rfl
    exact wordAccess_misaligned m n d4 (odd ▸ Nat.one_ne_zero)
  · rintro misaligned rfl
    exact longAccess_misaligned m n d4 misaligned
  · rintro rfl odd
    have misaligned : (eaIndexed m s).toNat % 2 ≠ 0 := odd ▸ Nat.one_ne_zero
    exact ⟨loadWord_misaligned misaligned, storeWord_misaligned misaligned⟩
  · rintro rfl misaligned
    exact ⟨loadLong_misaligned (a := eaIndexed m s) misaligned, storeLong_misaligned (a := eaIndexed m s) misaligned⟩
  · rintro odd rfl
    exact gbrWord_misaligned d8 (odd ▸ Nat.one_ne_zero)
  · rintro misaligned rfl
    exact gbrLong_misaligned d8 misaligned
  · rintro misaligned rfl
    have pop {put : State → Word → State} {row : CycleRow} := loadPop_misaligned (put := put) (row := row) misaligned
    have push {v : Word} {row : CycleRow} := storePush_misaligned (v := v) (row := row) misaligned
    have popSr := pop (put := fun s v => s.setSr (SR.ofWord v)) (row := .loadControl)
    refine ⟨popSr, pop, pop, pop, pop, pop, push, push, push, push, push, push, macL_misaligned n m misaligned, ?_⟩
    rintro rfl
    exact ⟨rte_misaligned misaligned, takeException_misaligned misaligned⟩
  · exact fun odd => macW_misaligned n m (odd ▸ Nat.one_ne_zero)

end Sys2Proof.Proofs
end

section
/-!
SUPPORT. The decoder and the encoder (R120 to R143). A word is its four nibbles: each word form has its fields there, the
decoder branches on them, and a row's mask keeps some of them and leaves the others free.
-/

namespace Sys2Proof

/-! ### Words by their nibbles -/

theorem half_eq_of_nibbles {v w : Half} (h12 : v.extractLsb' 12 4 = w.extractLsb' 12 4)
    (h8 : v.extractLsb' 8 4 = w.extractLsb' 8 4) (h4 : v.extractLsb' 4 4 = w.extractLsb' 4 4)
    (h0 : v.extractLsb' 0 4 = w.extractLsb' 0 4) : v = w := by
  simp only [BitVec.toNat_eq, BitVec.extractLsb'_toNat, Nat.shiftRight_eq_div_pow] at *
  omega

@[simp] theorem ofFin_regField (w : Half) (lo : Nat) : BitVec.ofFin (regField w lo) = w.extractLsb' lo 4 := rfl

@[simp] theorem wordR_fields (op : BitVec 4) (r : Reg) (low : BitVec 8) :
    (wordR op r low).extractLsb' 12 4 = op ∧ (wordR op r low).extractLsb' 8 4 = BitVec.ofFin r ∧
    (wordR op r low).extractLsb' 4 4 = low.extractLsb' 4 4 ∧ (wordR op r low).extractLsb' 0 4 = low.extractLsb' 0 4 ∧
    (wordR op r low).extractLsb' 0 8 = low := by
  refine ⟨?_, ?_, ?_, ?_, ?_⟩ <;> (ext i hi; grind [wordR])

@[simp] theorem wordRR_fields (op : BitVec 4) (n m : Reg) (low : BitVec 4) :
    (wordRR op n m low).extractLsb' 12 4 = op ∧ (wordRR op n m low).extractLsb' 8 4 = BitVec.ofFin n ∧
    (wordRR op n m low).extractLsb' 4 4 = BitVec.ofFin m ∧ (wordRR op n m low).extractLsb' 0 4 = low := by
  refine ⟨?_, ?_, ?_, ?_⟩ <;> (ext i hi; grind [wordRR])

@[simp] theorem wordRD_fields (op : BitVec 8) (r : Reg) (disp : BitVec 4) :
    (wordRD op r disp).extractLsb' 12 4 = op.extractLsb' 4 4 ∧
    (wordRD op r disp).extractLsb' 8 4 = op.extractLsb' 0 4 ∧
    (wordRD op r disp).extractLsb' 4 4 = BitVec.ofFin r ∧ (wordRD op r disp).extractLsb' 0 4 = disp := by
  refine ⟨?_, ?_, ?_, ?_⟩ <;> (ext i hi; grind [wordRD])

@[simp] theorem word8_fields (op low : BitVec 8) :
    (word8 op low).extractLsb' 12 4 = op.extractLsb' 4 4 ∧ (word8 op low).extractLsb' 8 4 = op.extractLsb' 0 4 ∧
    (word8 op low).extractLsb' 4 4 = low.extractLsb' 4 4 ∧ (word8 op low).extractLsb' 0 4 = low.extractLsb' 0 4 ∧
    (word8 op low).extractLsb' 0 8 = low := by
  refine ⟨?_, ?_, ?_, ?_, ?_⟩ <;> (ext i hi; grind [word8])

@[simp] theorem word12_fields (op : BitVec 4) (disp : BitVec 12) :
    (word12 op disp).extractLsb' 12 4 = op ∧ (word12 op disp).extractLsb' 8 4 = disp.extractLsb' 8 4 ∧
    (word12 op disp).extractLsb' 4 4 = disp.extractLsb' 4 4 ∧
    (word12 op disp).extractLsb' 0 4 = disp.extractLsb' 0 4 ∧ (word12 op disp).extractLsb' 0 12 = disp := by
  refine ⟨?_, ?_, ?_, ?_, ?_⟩ <;> (ext i hi; grind [word12])

/-! ### Decoding after encoding, and encoding after decoding -/

/-- Each instruction's word has the nibbles that lead the decoder to its row, and its operands in their fields. -/
theorem decodeWord_encode (i : Instr) : decodeWord (encode i) = some i := by
  cases i <;>
    simp [encode, regField, decodeWord, decodeMajor0, decodeMajor1, decodeMajor2, decodeMajor3, decodeMajor4,
      decodeMajor5, decodeMajor6, decodeMajor7, decodeMajor8, decodeMajor9, decodeMajorA, decodeMajorB, decodeMajorC,
      decodeMajorD, decodeMajorE]

/-- At each leaf of the decoder, the nibbles it has tested and the fields it has read are all there is to the word. -/
theorem encode_of_decodeWord {w : Half} {i : Instr} (h : decodeWord w = some i) : encode i = w := by
  simp only [decodeWord, decodeMajor0, decodeMajor1, decodeMajor2, decodeMajor3, decodeMajor4, decodeMajor5,
    decodeMajor6, decodeMajor7, decodeMajor8, decodeMajor9, decodeMajorA, decodeMajorB, decodeMajorC, decodeMajorD,
    decodeMajorE] at h
  repeat' split at h
  all_goals cases h
  all_goals apply half_eq_of_nibbles <;> simp [encode, *]

theorem decode_encodeBytes (i : Instr) (rest : List Byte) : decode (encodeBytes i ++ rest) = .ok (i, rest) := by
  have word : (encode i).extractLsb' 8 8 ++ (encode i).extractLsb' 0 8 = encode i :=
    BitVec.extractLsb'_append_extractLsb'
  simp only [encodeBytes, List.cons_append, List.nil_append, decode, word, decodeWord_encode]

/-! ### The rows of the table -/

theorem encode_and_row (i : Instr) : encode i &&& i.row.1 = i.row.2 := by
  cases i <;>
    simp only [encode, Instr.row, wordR_opcode, wordR_major, wordRR_opcode, wordRR_major, wordRD_opcode, word8_opcode,
      word12_opcode] <;> rfl

/-- Where a mask keeps a whole nibble, a word that matches has the pattern's nibble. -/
theorem nibble_of_and_eq {w mask pattern : Half} (h : w &&& mask = pattern) (lo : Nat)
    (kept : mask.extractLsb' lo 4 = 0xF#4) : w.extractLsb' lo 4 = pattern.extractLsb' lo 4 := by
  rw [← h, BitVec.extractLsb'_and, kept]
  exact BitVec.and_allOnes.symm

/-- The nibbles that a row fixes are those the decoder branches on. -/
theorem decodeWord_of_and_row {w mask pattern : Half} {j : Instr} (row : j.row = (mask, pattern))
    (h : w &&& mask = pattern) : ∃ i, decodeWord w = some i ∧ i.row = (mask, pattern) := by
  have h12 := nibble_of_and_eq h 12
  have h8 := nibble_of_and_eq h 8
  have h4 := nibble_of_and_eq h 4
  have h0 := nibble_of_and_eq h 0
  clear h
  cases j <;> cases row <;>
    simp only [BitVec.ofNat_eq_ofNat, BitVec.reduceExtractLsb', BitVec.reduceEq, true_implies, false_implies]
      at h12 h8 h4 h0 <;>
    simp [decodeWord, decodeMajor0, decodeMajor1, decodeMajor2, decodeMajor3, decodeMajor4, decodeMajor5,
      decodeMajor6, decodeMajor7, decodeMajor8, decodeMajor9, decodeMajorA, decodeMajorB, decodeMajorC, decodeMajorD,
      decodeMajorE, *] <;> rfl

theorem and_row_iff_decodeWord {w : Half} {j : Instr} :
    w &&& j.row.1 = j.row.2 ↔ ∃ i, decodeWord w = some i ∧ i.row = j.row := by
  constructor
  · exact decodeWord_of_and_row rfl
  · rintro ⟨i, decoded, row⟩
    rw [← row, ← encode_of_decodeWord decoded, encode_and_row]

/-! ### `IllegalInSlot` (R180) -/

theorem illegalInSlotRows_eq_map_row : illegalInSlotRows =
    [Instr.bsrf 0, .braf 0, .rts, .rte, .jsr 0, .jmp 0, .bt 0, .bf 0, .bts 0, .bfs 0, .bra 0, .bsr 0, .trapa 0].map
      Instr.row := rfl

theorem isIllegalInSlot_iff_row_mem (i : Instr) : i.isIllegalInSlot = true ↔ i.row ∈ illegalInSlotRows := by
  have agree : i.isIllegalInSlot = decide (i.row ∈ illegalInSlotRows) := by cases i <;> rfl
  rw [agree, decide_eq_true_iff]

theorem illegalInSlotWord_eq_any_decodeWord (w : Half) :
    illegalInSlotWord w = (decodeWord w).any Instr.isIllegalInSlot := by
  rw [Bool.eq_iff_iff]
  simp only [illegalInSlotWord, List.any_eq_true, beq_iff_eq, Option.any_eq_true, isIllegalInSlot_iff_row_mem]
  constructor
  · rintro ⟨row, listed, matched⟩
    obtain ⟨j, -, rfl⟩ := List.mem_map.mp (illegalInSlotRows_eq_map_row ▸ listed)
    obtain ⟨i, decoded, same⟩ := and_row_iff_decodeWord.mp matched
    exact ⟨i, decoded, same ▸ listed⟩
  · rintro ⟨i, decoded, listed⟩
    exact ⟨i.row, listed, and_row_iff_decodeWord.mpr ⟨i, decoded, rfl⟩⟩

end Sys2Proof

namespace Sys2Proof.Proofs

/-- Settles O1: every word form gives its fields back, and the decoder's tests and fields cover the word. -/
theorem decodeAndEncodeAgree : Obligations.decode_and_encode_agree :=
  ⟨fun i => ⟨decodeWord_encode i, decode_encodeBytes i⟩, fun _ _ => encode_of_decodeWord⟩

/-- Settles O2: a row fixes the nibbles that the decoder tests, and the rows of R180 are rows of the table. -/
theorem decodeIsTableLookup : Obligations.decode_is_table_lookup :=
  ⟨fun _ _ => and_row_iff_decodeWord, illegalInSlotWord_eq_any_decodeWord⟩

/-- Settles O3: each word but the last is the encoding of its instruction. -/
theorem exampleWordsDecode : Obligations.example_words_decode :=
  ⟨decodeWord_encode (.movImm 0xFE 3), decodeWord_encode (.movlStoreDisp 1 2 3),
    decodeWord_encode (.movbStoreDisp 5 3), decodeWord_encode (.addc 3 1), decodeWord_encode (.macW 2 1),
    decodeWord_encode (.andbGbr 0x0F), decodeWord_encode (.rotcr 1), decodeWord_encode (.bfs 0xFC),
    decodeWord_encode (.bsr 0x07E), decodeWord_encode (.ldclSr 15), decodeWord_encode (.trapa 0x20), by decide⟩

end Sys2Proof.Proofs
end

section
/-!
SUPPORT. The bit-field primitive (R151 to R153) bit by bit: which bits the mask has, what `set` and `reset` leave at each
bit of the register, and what `get` reads back after a `set`.
-/

namespace Sys2Proof.Machine

/-- The bit `i` of a field lies at bit `first + i` of the register, which is at most `last`. -/
theorem BitRange.first_add_le_last {n : Nat} (f : BitRange n) {i : Nat} (hi : i < f.width) : f.first + i ≤ f.last := by
  have ordered := f.ordered
  unfold BitRange.width at hi
  omega

/-- From `first` on, the distance is below the width just up to `last`. -/
theorem BitRange.sub_first_lt_width_iff {n : Nat} (f : BitRange n) {k : Nat} (hk : f.first ≤ k) :
    k - f.first < f.width ↔ k ≤ f.last := by
  have ordered := f.ordered
  unfold BitRange.width
  omega

theorem BitRange.getLsbD_mask {n : Nat} (f : BitRange n) {k : Nat} (hk : k < n) :
    f.mask.getLsbD k = decide (f.first ≤ k ∧ k ≤ f.last) := by
  have inRegister : k - f.first < n := Nat.lt_of_le_of_lt (Nat.sub_le k f.first) hk
  unfold BitRange.mask
  rw [BitVec.getLsbD_shiftLeft, BitVec.getLsbD_ofNat, Nat.testBit_two_pow_sub_one]
  by_cases above : f.first ≤ k
  · simp [hk, inRegister, above, f.sub_first_lt_width_iff above]
  · simp [above, Nat.lt_of_not_le above]

/-- Outside the range the register's bit stays; inside it the bit is the value's (R152). -/
theorem BitRange.getLsbD_set {n : Nat} (f : BitRange n) (reg v : BitVec n) {k : Nat} (hk : k < n) :
    (f.set reg v).getLsbD k =
      (if f.first ≤ k ∧ k ≤ f.last then v.getLsbD (k - f.first) else reg.getLsbD k) := by
  unfold BitRange.set
  rw [BitVec.getLsbD_or, BitVec.getLsbD_and, BitVec.getLsbD_and, BitVec.getLsbD_not, BitVec.getLsbD_shiftLeft,
    f.getLsbD_mask hk]
  split
  next inside => simp [hk, inside, Nat.not_lt.mpr inside.1]
  next outside => simp [hk, outside]

theorem BitRange.getLsbD_reset {n : Nat} (f : BitRange n) (reg : BitVec n) {k : Nat} (hk : k < n) :
    (f.reset reg).getLsbD k = (if f.first ≤ k ∧ k ≤ f.last then false else reg.getLsbD k) :=
  (f.getLsbD_set reg 0 hk).trans (by rw [BitVec.ofNat_eq_ofNat, BitVec.getLsbD_zero])

/-- What `get` reads after a `set` is the value cut to the field's width, whether it fits or not (R151, R152). -/
theorem BitRange.get_set {n : Nat} (f : BitRange n) (reg v : BitVec n) :
    f.get (f.set reg v) = v.setWidth f.width := by
  refine BitVec.eq_of_getLsbD_eq fun i hi => ?_
  have upTo : f.first + i ≤ f.last := f.first_add_le_last hi
  have inRegister : f.first + i < n := Nat.lt_of_le_of_lt upTo f.inside
  calc (f.get (f.set reg v)).getLsbD i
      = (f.set reg v).getLsbD (f.first + i) := by simp [BitRange.get, hi]
    _ = v.getLsbD (f.first + i - f.first) := by
        rw [f.getLsbD_set reg v inRegister, if_pos ⟨Nat.le_add_right _ _, upTo⟩]
    _ = (v.setWidth f.width).getLsbD i := by simp [hi]

/-- A value that fits the field is read back whole (R155). -/
theorem BitRange.toNat_get_set {n : Nat} (f : BitRange n) (reg : BitVec n) {v : BitVec n}
    (fits : v.toNat < 2 ^ f.width) : (f.get (f.set reg v)).toNat = v.toNat := by
  rw [f.get_set, BitVec.toNat_setWidth, Nat.mod_eq_of_lt fits]

end Sys2Proof.Machine

namespace Sys2Proof.Proofs

/-- Settles O56: bit by bit, the mask chooses between the register's bit and the value's. -/
theorem bitFields : Obligations.bit_fields :=
  fun _ f reg v _ hk => ⟨f.getLsbD_set reg v hk, f.getLsbD_reset reg hk, f.toNat_get_set reg⟩

end Sys2Proof.Proofs
end

section
/-!
SUPPORT. The step of the active CPU and the delay slot: the ends of a step that runs no instruction, what each branch
and `RTE` have captured when their slot is due, and how a slot at a plain address ends.
-/

namespace Sys2Proof.Machine

/-! ### The step of the active CPU (R160) -/

theorem step_stopped {s : State} (noCall : s.hostInputs = []) (stopped : s.emulationStopped = true) :
    step s = .refused .emulationStopped := by
  simp only [step, coreStep, noCall, stopped, if_true]

theorem step_running {s : State} (noCall : s.hostInputs = []) (running : s.emulationStopped = false) :
    step s = cpuStep s := by
  simp [step, coreStep, noCall, running]

theorem cpuStep_asleep {s : State} (idle : s.cpu.acceptable = none) (asleep : s.cpu.sleeping = true) :
    cpuStep s = .next (s.setCycles 0) := by
  simp only [cpuStep, idle, asleep, if_true]

theorem cpuStep_awake {s : State} (idle : s.cpu.acceptable = none) (awake : s.cpu.sleeping = false) :
    cpuStep s =
      if s.cpu.pc.toNat % 2 ≠ 0 then .fault (.misalignedFetch s.cpu.pc) else runInstruction s := by
  simp [cpuStep, idle, awake]

theorem runInstruction_decoded {s s' : State} {w : Half} {i : Instr} (fetch : memRead16 s.cpu.pc s = .next (w, s'))
    (decoded : decodeWord w = some i) :
    runInstruction s = andThen (exec i s') fun t => .next t.endStep := by
  simp only [runInstruction, fetch, andThen_next, decoded]

theorem runInstruction_badOpcode {s s' : State} {w : Half} (fetch : memRead16 s.cpu.pc s = .next (w, s'))
    (undecoded : decodeWord w = none) :
    runInstruction s = .next (s'.halt .badOpcode w s.cpu.pc) := by
  simp only [runInstruction, fetch, andThen_next, undecoded]

/-- Only an even address has a word (R90). -/
theorem even_of_plainHalf {s : State} {a : Word} {w : Half} (h : plainHalf s a = some w) : a.toNat % 2 = 0 := by
  unfold plainHalf at h
  split at h
  next even => exact even
  next => cases h

@[refl] theorem SameOutside.refl (s : State) : SameOutside s s :=
  ⟨rfl, rfl, rfl, rfl, rfl, rfl, rfl, rfl, rfl, rfl⟩

/-- A halt after changes of the active CPU alone has the frame of a halt. -/
theorem SameOutside.halt {s t : State} (h : SameOutside s t) (r : HaltReason) (w : Half) (pc : Word) :
    SameButStopped s (t.halt r w pc) :=
  ⟨h.active, (t.halt_other r w pc).trans h.other, h.scu, h.cd, h.mem, h.hostInputs, h.config⟩

/-! ### The captured state -/

@[simp] theorem State.mapCpu_const_cpu (s : State) : (s.mapCpu fun _ => s.cpu) = s := by
  rcases s with ⟨_, _, a, _⟩
  cases a <;> rfl

/-- An update of the active CPU puts one value in its place. -/
theorem State.mapCpu_eq_const (s : State) (f : Cpu → Cpu) : s.mapCpu f = s.mapCpu fun _ => f s.cpu := by
  rcases s with ⟨_, _, a, _⟩
  cases a <;> rfl

theorem State.setPc_mapCpu_const (s : State) (c : Cpu) (a : Word) :
    (s.mapCpu fun _ => c).setPc a = s.mapCpu fun _ => { c with pc := a } :=
  State.mapCpu_mapCpu s _ _

@[simp] theorem plainHalf_mapCpu (s : State) (f : Cpu → Cpu) (a : Word) :
    plainHalf (s.mapCpu f) a = plainHalf s a := rfl

@[simp] theorem plainLong_setReg (s : State) (n : Reg) (v a : Word) : plainLong (s.setReg n v) a = plainLong s a := rfl

theorem State.setReg_setReg_same (s : State) (n : Reg) (v v' : Word) : (s.setReg n v).setReg n v' = s.setReg n v' := by
  unfold State.setReg
  rw [State.mapCpu_mapCpu]
  congr 1
  funext c
  simp [Cpu.setReg]

/-! ### `RTE` up to its slot (R381, R541) -/

/-- The word of an SR gives its five fields back (R26); by the 256 values that SR has. -/
theorem SR.ofWord_toWord (sr : SR) : SR.ofWord sr.toWord = sr := by
  rcases sr with ⟨m, q, i, s, t⟩
  revert m q i s t
  decide

theorem SR.ofWord_and_mask (w : Word) : SR.ofWord (w &&& 0x000003F3) = SR.ofWord w := by
  have mask : (w &&& 1011#32).extractLsb' 4 4 = w.extractLsb' 4 4 := by
    rw [BitVec.extractLsb'_and]
    exact BitVec.and_allOnes
  simp [SR.ofWord, mask]

/-- The ten bits that SR holds determine it (R27). -/
theorem SR.ofWord_of_toWord {sr : SR} {w : Word} (h : sr.toWord = w &&& 0x000003F3) : SR.ofWord w = sr := by
  rw [← SR.ofWord_and_mask, ← h, SR.ofWord_toWord]

theorem popLong_plain {s : State} {n : Reg} {v : Word} (h : plainLong s (s.reg n) = some v) :
    popLong n s = .next (v, s.setReg n (s.reg n + 4)) := by
  simp only [popLong, memRead32_plain h, andThen_next]

/-- The bookkeeping of R541, whether an interrupt is in service or not. -/
theorem Cpu.returnFromInterrupt_eq (c : Cpu) : c.returnFromInterrupt = { c with
    current := none
    levelInterrupted := match c.current with
      | none   => c.levelInterrupted
      | some d => c.levelInterrupted.set d.level false } := by
  rcases c with ⟨_, _, _, _, _, _, _, _, _, _, current, _⟩
  cases current <;> rfl

theorem returnFromException_plain {s : State} {target w : Word} (top : plainLong s (s.reg Reg.sp) = some target)
    (above : plainLong s (s.reg Reg.sp + 4) = some w) :
    returnFromException s = .next (target,
      ((s.setReg Reg.sp (s.reg Reg.sp + 8)).setSr (SR.ofWord w)).mapCpu Cpu.returnFromInterrupt) := by
  have second : popLong Reg.sp (s.setReg Reg.sp (s.reg Reg.sp + 4)) =
      .next (w, s.setReg Reg.sp (s.reg Reg.sp + 8)) := by
    rw [popLong_plain (by simpa using above), State.setReg_setReg_same, State.reg_setReg_same, BitVec.add_assoc]
    rfl
  simp only [returnFromException, popLong_plain top, second, andThen_next]

/-- After the two pops, the active CPU that `TakesSlot` gives to the slot of `RTE`. -/
theorem captureRte_plain {s : State} {target w : Word} {sr : SR} (top : plainLong s (s.reg Reg.sp) = some target)
    (above : plainLong s (s.reg Reg.sp + 4) = some w) (word : sr.toWord = w &&& 0x000003F3) :
    captureRte s = .next (.slot
      (s.mapCpu fun _ => { s.cpu with
        r := s.cpu.r.set 15 (s.cpu.r.get 15 + 8)
        sr := sr
        current := none
        levelInterrupted := match s.cpu.current with
          | none   => s.cpu.levelInterrupted
          | some d => s.cpu.levelInterrupted.set d.level false })
      target (s.cost .returnException)) := by
  rw [captureRte, returnFromException_plain top above, andThen_next, SR.ofWord_of_toWord word, State.setSr,
    State.setReg, State.mapCpu_mapCpu, State.mapCpu_mapCpu, State.mapCpu_eq_const]
  simp only [Function.comp_apply, Cpu.returnFromInterrupt_eq]
  rfl

/-! ### What a delayed branch has captured (R184 step 1) -/

theorem State.link_eq (s : State) : s.link = s.mapCpu fun _ => { s.cpu with pr := s.cpu.pc + 4 } :=
  State.mapCpu_eq_const s fun c => { c with pr := s.cpu.pc + 4 }

theorem branchTarget_eq {n : Nat} (d : BitVec n) (s : State) :
    branchTarget d s = s.cpu.pc + (4 : Word) + (sext d <<< 1) := by
  rw [branchTarget, mul_two_eq_shiftLeft]

section
variable {s : State} {i : Instr} {c : Cpu} {target : Word} {cost : Nat} (h : TakesSlot s i c target cost)
include h

theorem TakesSlot.exec_eq : exec i s = delayedBranch (flowOf i) s := by
  cases h <;> rfl

/-- Up to its slot a taken delayed branch does what `TakesSlot` says, and nothing outside the active CPU. -/
theorem TakesSlot.flowOf_eq : flowOf i s = .next (.slot (s.mapCpu fun _ => c) target cost) := by
  cases h with
  | bra d => rw [State.mapCpu_const_cpu, ← branchTarget_eq]; rfl
  | braf | jmp | rts => rw [State.mapCpu_const_cpu]; rfl
  | bsr d => rw [← State.link_eq, ← branchTarget_eq]; rfl
  | bsrf | jsr => rw [← State.link_eq]; rfl
  | bts d taken =>
    rw [State.mapCpu_const_cpu, ← branchTarget_eq]
    exact if_pos taken
  | bfs d taken =>
    rw [State.mapCpu_const_cpu, ← branchTarget_eq]
    exact if_neg (Bool.eq_false_iff.mp taken)
  | rte _ _ _ top above word => exact captureRte_plain top above word

/-- A capture leaves the power-on quirk as it is. -/
theorem TakesSlot.porSlotQuirk_captured : (s.mapCpu fun _ => c).cpu.porSlotQuirk = s.cpu.porSlotQuirk := by
  rw [State.mapCpu_cpu]
  cases h <;> rfl

end

/-! ### How a slot at a plain address ends (R178 to R187) -/

/-- The delayed branches are among the thirteen (R176, R180). -/
theorem Instr.not_isDelayedBranch {i : Instr} (legal : i.isIllegalInSlot = false) : i.isDelayedBranch = false := by
  cases i
  case bra | bsr | braf | bsrf | jmp | jsr | rts | rte | bts | bfs => cases legal
  all_goals rfl

theorem flowOf_of_not_isDelayedBranch {i : Instr} (h : i.isDelayedBranch = false) (s : State) :
    flowOf i s = complete (exec i s) := by
  cases i
  case bra | bsr | braf | bsrf | jmp | jsr | rts | rte | bts | bfs => cases h
  all_goals rfl

/-- The PC-relative instructions pass the slot check (R180, R185). -/
theorem Instr.not_isIllegalInSlot {i : Instr} (relative : i.isPcRelative = true) : i.isIllegalInSlot = false := by
  cases i
  case movwLoadPc | movlLoadPc | mova => rfl
  all_goals cases relative

theorem Instr.legalInSlot_iff {i : Instr} :
    i.legalInSlot = true ↔ i.isIllegalInSlot = false ∧ i.isPcRelative = false := by
  simp [Instr.legalInSlot]

section
variable {s : State} {a : Word} {w : Half} (plain : plainHalf s a = some w)
include plain

/-- One of the thirteen (R180, R181). -/
theorem runSlot_illegal (quirkOver : s.cpu.porSlotQuirk = false)
    (illegal : (decodeWord w).any Instr.isIllegalInSlot = true) :
    runSlot slotFuel a s = .next (.halted (s.halt .illegalSlotInstruction w a)) := by
  rw [slotFuel_succ, runSlot_plain _ (even_of_plainHalf plain) plain, illegalInSlotWord_eq_any_decodeWord, if_pos]
  rw [quirkOver, illegal]
  rfl

/-- A word that spells no instruction (R182, R187). -/
theorem runSlot_badOpcode (undecoded : decodeWord w = none) :
    runSlot slotFuel a s = .next (.halted ((s.setPc a).halt .badOpcode w a)) := by
  rw [slotFuel_succ, runSlot_plain _ (even_of_plainHalf plain) plain, illegalInSlotWord_eq_any_decodeWord, undecoded,
    if_neg (by simp)]

/-- A PC-relative instruction (R185). -/
theorem runSlot_pcRelative {j : Instr} (decoded : decodeWord w = some j) (relative : j.isPcRelative = true) :
    runSlot slotFuel a s = .fault (.pcRelativeInSlot a) := by
  have legal : j.isIllegalInSlot = false := Instr.not_isIllegalInSlot relative
  rw [slotFuel_succ, runSlot_plain _ (even_of_plainHalf plain) plain, illegalInSlotWord_eq_any_decodeWord, decoded,
    if_neg (by simp [legal])]
  simp only [relative, if_true]
  cases s.config.pcRelInSlot
  rfl

/-- An instruction without a slot of its own runs with the slot's address as pc, if it is legal in a slot or the slot
check is skipped (R178, R183, R185). -/
theorem runSlot_completed {j : Instr} {u : State} (decoded : decodeWord w = some j)
    (passes : s.cpu.porSlotQuirk = true ∨ j.isIllegalInSlot = false) (slotless : j.isDelayedBranch = false)
    (absolute : j.isPcRelative = false) (runs : exec j (s.setPc a) = .next u) :
    runSlot slotFuel a s = .next (.completed u) := by
  rw [slotFuel_succ, runSlot_plain _ (even_of_plainHalf plain) plain, illegalInSlotWord_eq_any_decodeWord, decoded,
    if_neg (by rcases passes with quirk | legal <;> simp [*])]
  simp only [absolute, Bool.false_eq_true, if_false, flowOf_of_not_isDelayedBranch slotless, runs, complete,
    andThen_next, finishFlow]

end

/-! ### The whole step of a delayed branch, by the end of its slot (R184) -/

section
variable {s : State} {i : Instr} {c : Cpu} {target : Word} {cost : Nat} (h : TakesSlot s i c target cost)
include h

theorem TakesSlot.exec_eq_slot :
    exec i s = andThen (finishFlow (runSlot slotFuel) (s.cpu.pc + 2) (.slot (s.mapCpu fun _ => c) target cost))
      fun e => .next e.state := by
  rw [h.exec_eq, delayedBranch_slot h.flowOf_eq]

/-- A completed slot is committed. -/
theorem TakesSlot.commits {u : State}
    (slot : runSlot slotFuel (s.cpu.pc + 2) (s.mapCpu fun _ => c) = .next (.completed u)) :
    ∃ t, exec i s = .next t ∧ t.cpu = u.cpu.arrived target (cost + u.cpu.cyclesElapsed) ∧ SameOutside u t := by
  refine ⟨u.commit target cost, ?_, u.commit_cpu target cost, sameOutside_mapCpu u _⟩
  rw [h.exec_eq_slot, finishFlow, slot]
  rfl

/-- A halted slot is not committed, and the halt is the instruction's own. -/
theorem TakesSlot.halts {c' : Cpu} {r : HaltReason} {w : Half} {pc : Word}
    (slot : runSlot slotFuel (s.cpu.pc + 2) (s.mapCpu fun _ => c) =
      .next (.halted ((s.mapCpu fun _ => c').halt r w pc))) :
    Halts i s c' ⟨r, s.active, w, pc⟩ := by
  refine ⟨(s.mapCpu fun _ => c').halt r w pc, Config.freeCycles s.draws, ?_, rfl, rfl, by simp,
    (sameOutside_mapCpu s _).halt r w pc⟩
  rw [h.exec_eq_slot, finishFlow, slot]
  rfl

theorem TakesSlot.faults {f : Fault} (slot : runSlot slotFuel (s.cpu.pc + 2) (s.mapCpu fun _ => c) = .fault f) :
    exec i s = .fault f := by
  rw [h.exec_eq_slot, finishFlow, slot]
  rfl

end

end Sys2Proof.Machine

namespace Sys2Proof.Proofs

open Sys2Proof.Machine

/-- Settles O30: the slot word passes the check, and its instruction is what the slot runs on the captured state. -/
theorem delayedBranchRunsItsSlot : Obligations.delayed_branch_runs_its_slot := by
  intro s u i j w c target cost takes _ plain decoded legal runs
  obtain ⟨legal, absolute⟩ := Instr.legalInSlot_iff.mp legal
  rw [← plainHalf_mapCpu s fun _ => c] at plain
  rw [← State.setPc_mapCpu_const] at runs
  exact takes.commits (runSlot_completed plain decoded (.inr legal) (Instr.not_isDelayedBranch legal) absolute runs)

/-- Settles O32: the slot check stops the word before its instruction, on the captured state. -/
theorem illegalSlotHalts : Obligations.illegal_slot_halts := by
  intro s i w c target cost takes _ quirkOver plain illegal
  rw [← plainHalf_mapCpu s fun _ => c] at plain
  rw [← takes.porSlotQuirk_captured] at quirkOver
  exact takes.halts (runSlot_illegal plain quirkOver illegal)

/-- Settles O33: by what the slot word spells; `BT`, `BF` and `TRAPA` have no slot of their own, so that with the quirk
set they run as any other instruction does. -/
theorem otherSlots : Obligations.other_slots := by
  intro s i w c target cost takes _ plain
  rw [← plainHalf_mapCpu s fun _ => c] at plain
  refine ⟨fun undecoded => ?_, fun j decoded relative => ?_, fun j e u decoded listed quirk runs => ?_⟩
  · have slot := runSlot_badOpcode plain undecoded
    rw [State.setPc_mapCpu_const] at slot
    exact takes.halts slot
  · exact takes.faults (runSlot_pcRelative plain decoded relative)
  · have kind : j.isDelayedBranch = false ∧ j.isPcRelative = false := by
      simp only [List.mem_cons, List.not_mem_nil, or_false] at listed
      rcases listed with rfl | rfl | rfl <;> exact ⟨rfl, rfl⟩
    obtain ⟨slotless, absolute⟩ := kind
    rw [← takes.porSlotQuirk_captured] at quirk
    rw [← State.setPc_mapCpu_const] at runs
    exact takes.commits (runSlot_completed plain decoded (.inl quirk) slotless absolute runs)

/-- Settles O4: the step of an awake CPU at an even pc is its instruction. -/
theorem stepRunsDecodedInstruction : Obligations.step_runs_decoded_instruction := by
  intro s s' w i noCall running idle awake even fetch decoded
  rw [step_running noCall running, cpuStep_awake idle awake, if_neg (not_not.mpr even),
    runInstruction_decoded fetch decoded]
  cases exec i s' <;> rfl

/-- Settles O5: each end by the test of R160 that ends the step. -/
theorem stepWithoutInstruction : Obligations.step_without_instruction := by
  intro s noCall
  refine ⟨step_stopped noCall, fun running idle asleep => ?_, fun running idle awake odd => ?_,
    fun w running idle awake plain undecoded => ?_⟩
  · refine ⟨s.setCycles 0, ?_, s.setCycles_cpu 0, sameOutside_mapCpu s _⟩
    rw [step_running noCall running, cpuStep_asleep idle asleep]
  · rw [step_running noCall running, cpuStep_awake idle awake, if_pos (by rw [odd]; exact one_ne_zero)]
  · refine ⟨s.halt .badOpcode w s.cpu.pc, Config.freeCycles s.draws, ?_, rfl, rfl, s.halt_cpu _ _ _,
      (SameOutside.refl s).halt _ _ _⟩
    rw [step_running noCall running, cpuStep_awake idle awake, if_neg (not_not.mpr (even_of_plainHalf plain)),
      runInstruction_badOpcode (memRead16_plain plain) undecoded]

end Sys2Proof.Proofs
end

section
/-!
SUPPORT. The data transfer instructions: an instruction that makes one access and then writes a register, or none,
follows that access, and at a plain address the access is a load or a store of `Laws/Ops.lean`.
-/

namespace Sys2Proof.Machine

/-! ### The end of a simple instruction that writes a register -/

theorem SameOutside.trans {s t u : State} (h : SameOutside s t) (k : SameOutside t u) : SameOutside s u :=
  ⟨k.active.trans h.active, k.other.trans h.other, k.scu.trans h.scu, k.cd.trans h.cd, k.mem.trans h.mem,
    k.emulationStopped.trans h.emulationStopped, k.diagnostic.trans h.diagnostic, k.hostInputs.trans h.hostInputs,
    k.draws.trans h.draws, k.config.trans h.config⟩

theorem sameOutside_simple (s : State) : SameOutside s s.simple :=
  sameOutside_mapCpu s fun c => { c with pc := c.pc + 2, cyclesElapsed := s.cost .simple }

theorem sameOutside_setReg (s : State) (n : Reg) (v : Word) : SameOutside s (s.setReg n v) := sameOutside_mapCpu s _

theorem sameOutside_setReg_simple (s : State) (n : Reg) (v : Word) : SameOutside s (s.setReg n v).simple :=
  (sameOutside_setReg s n v).trans (sameOutside_simple _)

theorem State.setReg_simple_cpu (s : State) (n : Reg) (v : Word) :
    (s.setReg n v).simple.cpu = { s.after .simple with r := s.cpu.r.set n v } := by
  rw [State.simple_cpu, State.setReg_cpu]
  rfl

/-- An instruction without an access that writes one register (R162, R200 (d)). -/
theorem runsTo_of_setReg {i : Instr} {s : State} {n : Reg} {v : Word} (runs : exec i s = .next (s.setReg n v).simple) :
    RunsTo i s { s.after .simple with r := s.cpu.r.set n v } :=
  ⟨_, runs, s.setReg_simple_cpu n v, sameOutside_setReg_simple s n v⟩

/-! ### Instructions that follow one access (R200 (d)) -/

section
variable {α : Type} {i : Instr} {s : State} {a b : Word} {n k : Reg}

theorem follows_of_andThen {access : Result α} {after f : α → State} {cpu : α → Cpu}
    (runs : exec i s = andThen access fun x => .next (f x)) (active : ∀ x, (f x).cpu = cpu x)
    (frame : ∀ x, SameOutside (after x) (f x)) : Follows i s access after cpu := by
  cases access with
  | next x => exact ⟨f x, runs, active x, frame x⟩
  | fault | refused => exact runs

/-- A register written after the access: the value loaded, or the address of a push. -/
theorem follows_of_setReg {access : Result α} {after : α → State} (value : α → Word)
    (runs : exec i s = andThen access fun x => .next ((after x).setReg k (value x)).simple) :
    Follows i s access after fun x => { (after x).after .simple with r := (after x).cpu.r.set k (value x) } :=
  follows_of_andThen runs (fun _ => State.setReg_simple_cpu _ _ _) fun _ => sameOutside_setReg_simple _ _ _

theorem follows_of_loadByte (runs : exec i s = loadByte b k s) (address : b = a) :
    Follows i s (memRead8 a s) Prod.snd fun x => { x.2.after .simple with r := x.2.cpu.r.set k (sext x.1) } := by
  subst address
  exact follows_of_setReg (after := Prod.snd) (fun x => sext x.1) runs

theorem follows_of_loadWord (runs : exec i s = loadWord b k s) (address : b = a) :
    Follows i s (memRead16 a s) Prod.snd fun x => { x.2.after .simple with r := x.2.cpu.r.set k (sext x.1) } := by
  subst address
  exact follows_of_setReg (after := Prod.snd) (fun x => sext x.1) runs

theorem follows_of_loadLong (runs : exec i s = loadLong b k s) (address : b = a) :
    Follows i s (memRead32 a s) Prod.snd fun x => { x.2.after .simple with r := x.2.cpu.r.set k x.1 } := by
  subst address
  exact follows_of_setReg Prod.fst runs

theorem follows_of_storeByte {v : Word} (runs : exec i s = storeByte b v s) (address : b = a) :
    Follows i s (memWrite8 a (v.setWidth 8) s) id fun u => u.after .simple := by
  subst address
  rw [BitVec.setWidth_eq_extractLsb' (by decide)]
  exact follows_of_andThen runs State.simple_cpu sameOutside_simple

theorem follows_of_storeWord {v : Word} (runs : exec i s = storeWord b v s) (address : b = a) :
    Follows i s (memWrite16 a (v.setWidth 16) s) id fun u => u.after .simple := by
  subst address
  rw [BitVec.setWidth_eq_extractLsb' (by decide)]
  exact follows_of_andThen runs State.simple_cpu sameOutside_simple

theorem follows_of_storeLong {v : Word} (runs : exec i s = storeLong b v s) (address : b = a) :
    Follows i s (memWrite32 a v s) id fun u => u.after .simple := by
  subst address
  exact follows_of_andThen runs State.simple_cpu sameOutside_simple

/-! ### The same at plain addresses -/

/-- Where the access reads a value and changes nothing, the instruction changes its own CPU alone. -/
theorem Follows.runsTo {access : Result (α × State)} {cpu : α × State → Cpu} {v : α}
    (follows : Follows i s access Prod.snd cpu) (reads : access = .next (v, s)) : RunsTo i s (cpu (v, s)) := by
  subst reads
  exact follows

theorem runsTo_of_loadByte {v : Byte} (runs : exec i s = loadByte b k s) (address : b = a)
    (plain : plainByte s a = some v) : RunsTo i s { s.after .simple with r := s.cpu.r.set k (sext v) } :=
  (follows_of_loadByte runs address).runsTo (memRead8_plain plain)

theorem runsTo_of_loadWord {v : Half} (runs : exec i s = loadWord b k s) (address : b = a)
    (plain : plainHalf s a = some v) : RunsTo i s { s.after .simple with r := s.cpu.r.set k (sext v) } :=
  (follows_of_loadWord runs address).runsTo (memRead16_plain plain)

theorem runsTo_of_loadLong {v : Word} (runs : exec i s = loadLong b k s) (address : b = a)
    (plain : plainLong s a = some v) : RunsTo i s { s.after .simple with r := s.cpu.r.set k v } :=
  (follows_of_loadLong runs address).runsTo (memRead32_plain plain)

/-- Where the access changes the contents of storage alone, so does the instruction, but for its own CPU. -/
theorem Follows.runsStoring {access : Result State} {cpu : State → Cpu} {c : Cpu} {content : Nat → Byte}
    (follows : Follows i s access id cpu)
    (writes : ∃ m, access = .next { s with mem := m } ∧ ∀ q, m.read q = content q)
    (active : ∀ m : Memory, cpu { s with mem := m } = c) : RunsStoring i s c content := by
  obtain ⟨m, rfl, reads⟩ := writes
  obtain ⟨t, runs, cpuEq, frame⟩ := follows
  refine ⟨t, runs, cpuEq.trans (active m), ?_, fun q => by rw [frame.mem]; exact reads q⟩
  exact ⟨frame.active, frame.other.trans (s.withMem_other m), frame.scu, frame.cd, frame.emulationStopped,
    frame.diagnostic, frame.hostInputs, frame.draws, frame.config⟩

/-- The contents of storage do not matter to how the active CPU goes on. -/
theorem State.withMem_after (s : State) (m : Memory) (row : CycleRow) :
    ({ s with mem := m } : State).after row = s.after row := by
  rw [State.after, State.withMem_cpu]
  rfl

theorem runsStoring_of_storeByte {v : Word} (plain : plainPlace s a = true) (runs : exec i s = storeByte b v s)
    (address : a = b) : RunsStoring i s (s.after .simple) (stored s a 1 v) := by
  have follows := follows_of_storeByte runs address.symm
  rw [BitVec.setWidth_eq_extractLsb' (by decide)] at follows
  exact follows.runsStoring (memWrite8_plain v plain) fun m => s.withMem_after m _

theorem runsStoring_of_storeWord {v : Word} (plain : plainPlace s a = true) (aligned : a.toNat % 2 = 0)
    (runs : exec i s = storeWord b v s) (address : a = b) :
    RunsStoring i s (s.after .simple) (stored s a 2 v) := by
  have follows := follows_of_storeWord runs address.symm
  rw [BitVec.setWidth_eq_extractLsb' (by decide)] at follows
  exact follows.runsStoring (memWrite16_plain v aligned plain) fun m => s.withMem_after m _

theorem runsStoring_of_storeLong {v : Word} (plain : plainPlace s a = true) (aligned : a.toNat % 4 = 0)
    (runs : exec i s = storeLong b v s) (address : a = b) :
    RunsStoring i s (s.after .simple) (stored s a 4 v) :=
  (follows_of_storeLong runs address.symm).runsStoring (memWrite32_plain v aligned plain) fun m => s.withMem_after m _

/-! ### Post-increment and pre-decrement (R211 to R216) -/

/-- The base moves before the destination is written, so that in one register the loaded value wins. -/
theorem postIncrement_setReg (s : State) (m n : Reg) (step v : Word) :
    (postIncrement m n step s).setReg n v = (s.setReg m (s.reg m + step)).setReg n v := by
  by_cases same : m = n
  · subst same
    rw [postIncrement, if_pos rfl, State.setReg_setReg_same]
  · rw [postIncrement, if_neg same]

theorem runsTo_of_postIncrement {access : Result (α × State)} {v : α} {m : Reg} {step : Word} (value : α → Word)
    (reads : access = .next (v, s))
    (runs : exec i s = andThen access fun x => .next ((postIncrement m n step x.2).setReg n (value x.1)).simple) :
    RunsTo i s { s.after .simple with r := (s.cpu.r.set m (s.cpu.r.get m + step)).set n (value v) } := by
  rw [reads, andThen_next, postIncrement_setReg] at runs
  refine ⟨_, runs, ?_, (sameOutside_setReg s m _).trans (sameOutside_setReg_simple _ _ _)⟩
  rw [State.setReg_simple_cpu, State.after, State.setReg_cpu]
  rfl

/-- A push stores at the address that its register then holds. -/
theorem runsStoring_of_preDecrement {access : Result State} {content : Nat → Byte}
    (runs : exec i s = andThen access fun u => .next (u.setReg n b).simple) (address : a = b)
    (writes : ∃ m, access = .next { s with mem := m } ∧ ∀ q, m.read q = content q) :
    RunsStoring i s { s.after .simple with r := s.cpu.r.set n a } content := by
  subst address
  refine (follows_of_setReg (after := id) (fun _ => a) runs).runsStoring writes fun m => ?_
  rw [id, State.withMem_after, State.withMem_cpu]

theorem exec_movlPush (m n : Reg) (s : State) :
    exec (.movlPush m n) s =
      andThen (memWrite32 (s.reg n - 4) (s.reg m) s) fun u => .next (u.setReg n (s.reg n - 4)).simple := by
  show andThen (andThen (memWrite32 _ _ s) _) _ = _
  cases memWrite32 (s.reg n - 4) (s.reg m) s <;> rfl

end

/-! ### Effective addresses (R200, R202, R203) -/

theorem eaDisp_one (n : Reg) (d : BitVec 4) (s : State) : eaDisp n d 1 s = s.reg n + zext d :=
  congrArg (s.reg n + ·) (BitVec.mul_one (zext d))

theorem eaGbr_one (d : Byte) (s : State) : eaGbr d 1 s = s.cpu.gbr + zext d :=
  congrArg (s.cpu.gbr + ·) (BitVec.mul_one (zext d))

theorem eaPcWord_eq (d : Byte) (s : State) : eaPcWord d s = s.cpu.pc + (4 : Word) + (zext d <<< 1) := by
  rw [eaPcWord, mul_two_eq_shiftLeft]

/-- Rounding down to a multiple of 4 drops two bits. -/
theorem eaPcLong_eq (d : Byte) (s : State) : eaPcLong d s = ((s.cpu.pc + 4) >>> 2 <<< 2) + (zext d <<< 2) := by
  rw [eaPcLong, mul_four_eq_shiftLeft, BitVec.shiftLeft_ushiftRight]
  rfl

/-! ### Values of the register moves (R236 to R239) -/

theorem zext_ofBool (t : Bool) : zext (BitVec.ofBool t) = if t then 1 else 0 := by
  cases t <;> rfl

theorem middleWords_eq (m n : Word) : middleWords m n = (m <<< 16) ||| (n >>> 16) := by
  rw [BitVec.shiftLeft_eq_concat_of_lt (by decide), BitVec.ushiftRight_eq_extractLsb'_of_lt (by decide),
    BitVec.cast_eq, BitVec.cast_eq, BitVec.or_append (w := 16) (v := 16), BitVec.or_zero, BitVec.zero_or, middleWords]

/-- Swapping the halves of a word takes the middle of the word twice. -/
theorem swapWords_eq (v : Word) : swapWords v = v.rotateLeft 16 := by
  rw [BitVec.rotateLeft_def]
  exact middleWords_eq v v

/-- Bit by bit: the masks are shifts of a word of ones, whose bits say which byte a bit of the result is from. -/
theorem swapBytes_eq (v : Word) :
    swapBytes v =
      (v &&& (0xFFFF0000 : Word)) ||| ((v &&& 0x000000FF) <<< 8) ||| ((v &&& 0x0000FF00) >>> 8) := by
  have high : (0xFFFF0000 : Word) = BitVec.allOnes 32 >>> 16 <<< 16 := by decide
  have low : (0x000000FF : Word) = BitVec.allOnes 32 >>> 24 := by decide
  have middle : (0x0000FF00 : Word) = BitVec.allOnes 32 >>> 24 <<< 8 := by decide
  apply BitVec.eq_of_getLsbD_eq
  intro k hk
  rw [swapBytes, BitVec.getLsbD_append, BitVec.getLsbD_append, high, low, middle]
  simp only [BitVec.getLsbD_or, BitVec.getLsbD_and, BitVec.getLsbD_shiftLeft, BitVec.getLsbD_ushiftRight,
    BitVec.getLsbD_allOnes, BitVec.getLsbD_extractLsb']
  grind

end Sys2Proof.Machine

namespace Sys2Proof.Proofs

open Sys2Proof.Machine

/-- Settles O7: each load is `loadByte`, `loadWord` or `loadLong` at its effective address. -/
theorem loads : Obligations.loads := fun s m _ d4 d8 _ _ _ =>
  ⟨runsTo_of_loadByte rfl rfl,
    runsTo_of_loadByte (k := 0) rfl (eaDisp_one m d4 s),
    runsTo_of_loadByte rfl rfl,
    runsTo_of_loadByte (k := 0) rfl (eaGbr_one d8 s),
    runsTo_of_loadWord rfl rfl,
    runsTo_of_loadWord (k := 0) rfl (eaDisp_two m d4 s),
    runsTo_of_loadWord rfl rfl,
    runsTo_of_loadWord (k := 0) rfl (eaGbr_two d8 s),
    runsTo_of_loadWord rfl (eaPcWord_eq d8 s),
    runsTo_of_loadLong rfl rfl,
    runsTo_of_loadLong rfl (eaDisp_four m d4 s),
    runsTo_of_loadLong rfl rfl,
    runsTo_of_loadLong (k := 0) rfl (eaGbr_four d8 s),
    runsTo_of_loadLong rfl (eaPcLong_eq d8 s)⟩

/-- Settles O8: the access of each is a load at a plain address, after which base and destination are written. -/
theorem postIncrementLoads : Obligations.post_increment_loads := fun _ _ _ =>
  ⟨fun _ plain => runsTo_of_postIncrement sext (memRead8_plain plain) rfl,
    fun _ plain => runsTo_of_postIncrement sext (memRead16_plain plain) rfl,
    fun _ plain => runsTo_of_postIncrement id (memRead32_plain plain) rfl⟩

/-- Settles O9: each store is `storeByte`, `storeWord` or `storeLong` at its effective address. -/
theorem stores : Obligations.stores := fun s _ n d4 d8 _ plain =>
  ⟨runsStoring_of_storeByte plain rfl,
    fun address => runsStoring_of_storeByte plain rfl (address.trans (eaDisp_one n d4 s).symm),
    runsStoring_of_storeByte plain rfl,
    fun address => runsStoring_of_storeByte plain rfl (address.trans (eaGbr_one d8 s).symm),
    fun aligned => runsStoring_of_storeWord plain aligned rfl,
    fun aligned address => runsStoring_of_storeWord plain aligned rfl (address.trans (eaDisp_two n d4 s).symm),
    fun aligned => runsStoring_of_storeWord plain aligned rfl,
    fun aligned address => runsStoring_of_storeWord plain aligned rfl (address.trans (eaGbr_two d8 s).symm),
    fun aligned => runsStoring_of_storeLong plain aligned rfl,
    fun aligned address => runsStoring_of_storeLong plain aligned rfl (address.trans (eaDisp_four n d4 s).symm),
    fun aligned => runsStoring_of_storeLong plain aligned rfl,
    fun aligned address => runsStoring_of_storeLong plain aligned rfl (address.trans (eaGbr_four d8 s).symm)⟩

/-- Settles O10: each stores at the address that its register then holds, and reads the data register before. -/
theorem preDecrementStores : Obligations.pre_decrement_stores := by
  intro s m n a plain
  refine ⟨?_, ?_, ?_⟩
  · rintro rfl
    exact runsStoring_of_preDecrement rfl rfl (memWrite8_plain _ plain)
  · rintro aligned rfl
    exact runsStoring_of_preDecrement rfl rfl (memWrite16_plain _ aligned plain)
  · rintro aligned rfl
    exact runsStoring_of_preDecrement (exec_movlPush m n s) rfl (memWrite32_plain _ aligned plain)

/-- Settles O11: in each of the four addressing modes the instruction is the shared load or store of its width. -/
theorem accessesFollowTheBus : Obligations.accesses_follow_the_bus := by
  intro s m n k d4 d8 i a v
  simp only [List.mem_cons, List.not_mem_nil, or_false, Prod.mk.injEq]
  refine ⟨?_, ?_, ?_, ?_, ?_, ?_⟩ <;> rintro (⟨rfl, rfl, rfl⟩ | ⟨rfl, rfl, rfl⟩ | ⟨rfl, rfl, rfl⟩ | ⟨rfl, rfl, rfl⟩)
  exacts [
    follows_of_loadByte rfl rfl, follows_of_loadByte rfl (eaDisp_one m d4 s),
    follows_of_loadByte rfl rfl, follows_of_loadByte rfl (eaGbr_one d8 s),
    follows_of_loadWord rfl rfl, follows_of_loadWord rfl (eaDisp_two m d4 s),
    follows_of_loadWord rfl rfl, follows_of_loadWord rfl (eaGbr_two d8 s),
    follows_of_loadLong rfl rfl, follows_of_loadLong rfl (eaDisp_four m d4 s),
    follows_of_loadLong rfl rfl, follows_of_loadLong rfl (eaGbr_four d8 s),
    follows_of_storeByte rfl rfl, follows_of_storeByte rfl (eaDisp_one n d4 s),
    follows_of_storeByte rfl rfl, follows_of_storeByte rfl (eaGbr_one d8 s),
    follows_of_storeWord rfl rfl, follows_of_storeWord rfl (eaDisp_two n d4 s),
    follows_of_storeWord rfl rfl, follows_of_storeWord rfl (eaGbr_two d8 s),
    follows_of_storeLong rfl rfl, follows_of_storeLong rfl (eaDisp_four n d4 s),
    follows_of_storeLong rfl rfl, follows_of_storeLong rfl (eaGbr_four d8 s)]

/-- Settles O6: each move writes one register, with the value that the lemmas above spell in shifts and masks. -/
theorem registerMoves : Obligations.register_moves := by
  intro s m n imm
  refine ⟨runsTo_of_setReg rfl, runsTo_of_setReg rfl, ?_, ?_, ?_, ?_, ?_⟩
  · rw [← zext_ofBool]
    exact runsTo_of_setReg rfl
  · rw [← eaPcLong_eq]
    exact runsTo_of_setReg (n := 0) rfl
  · rw [← swapBytes_eq]
    exact runsTo_of_setReg rfl
  · rw [← swapWords_eq]
    exact runsTo_of_setReg rfl
  · rw [← middleWords_eq]
    exact runsTo_of_setReg rfl

end Sys2Proof.Proofs
end

section
/-!
SUPPORT. The arithmetic instructions: how one of them ends that writes flags or the accumulator, and its results as the
spec writes them, in bit vectors of 33 and 64 bits (R251 to R283).
-/

namespace Sys2Proof.Machine

/-! ### The end of an instruction that writes flags or the accumulator (R250) -/

theorem sameOutside_setT (s : State) (t : Bool) : SameOutside s (s.setT t) := sameOutside_mapCpu s _

theorem sameOutside_setSr (s : State) (sr : SR) : SameOutside s (s.setSr sr) := sameOutside_mapCpu s _

theorem sameOutside_setMach (s : State) (v : Word) : SameOutside s (s.setMach v) := sameOutside_mapCpu s _

theorem sameOutside_setMacl (s : State) (v : Word) : SameOutside s (s.setMacl v) := sameOutside_mapCpu s _

theorem sameOutside_setRegT (s : State) (n : Reg) (result : Word × Bool) : SameOutside s (s.setRegT n result) :=
  (sameOutside_setReg s n result.1).trans (sameOutside_setT _ result.2)

theorem sameOutside_setMac (s : State) (v : BitVec 64) : SameOutside s (s.setMac v) :=
  (sameOutside_setMach s _).trans (sameOutside_setMacl _ _)

section
variable {i : Instr} {s u : State} {c : Cpu} {n : Reg} {row : CycleRow} {v w : Word} {t : Bool} {sr : SR}

/-- An instruction that changes its own CPU alone and then goes on to the next one (R162). -/
theorem runsTo_of_advance (runs : exec i s = .next (u.advance row)) (frame : SameOutside s u) (cpu : u.cpu = c) :
    RunsTo i s { c with pc := c.pc + 2, cyclesElapsed := s.cost row } := by
  subst cpu
  refine ⟨_, runs, ?_, frame.trans (sameOutside_mapCpu u _)⟩
  rw [State.advance_cpu, State.cost_eq, State.cost_eq, frame.config]

/-- `runsTo_of_setReg` with the value spelled in another way than the model's. -/
theorem runsTo_of_setReg_eq (runs : exec i s = .next (s.setReg n v).simple) (value : v = w) :
    RunsTo i s { s.after .simple with r := s.cpu.r.set n w } :=
  value ▸ runsTo_of_setReg runs

theorem runsTo_of_setRegT {result : Word × Bool} (runs : exec i s = .next (s.setRegT n result).simple)
    (value : result.1 = v) (flag : result.2 = t) :
    RunsTo i s { s.after .simple with r := s.cpu.r.set n v, sr := { s.cpu.sr with t := t } } := by
  subst value flag
  exact runsTo_of_advance runs (sameOutside_setRegT s n result) (s.setRegT_cpu n result)

theorem runsTo_of_testT {flag : Bool} (runs : exec i s = testT flag s) (flagEq : flag = t) :
    RunsTo i s { s.after .simple with sr := { s.cpu.sr with t := t } } := by
  subst flagEq
  exact runsTo_of_advance runs (sameOutside_setT s flag) (s.setT_cpu flag)

theorem runsTo_of_setSr (runs : exec i s = .next (s.setSr sr).simple) :
    RunsTo i s { s.after .simple with sr := sr } :=
  runsTo_of_advance runs (sameOutside_setSr s sr) (s.setSr_cpu sr)

theorem runsTo_of_setReg_setSr (runs : exec i s = .next ((s.setReg n v).setSr sr).simple) :
    RunsTo i s { s.after .simple with r := s.cpu.r.set n v, sr := sr } := by
  have cpu : ((s.setReg n v).setSr sr).cpu = { s.cpu with r := s.cpu.r.set n v, sr := sr } := by
    rw [State.setSr_cpu, State.setReg_cpu]
  exact runsTo_of_advance runs ((sameOutside_setReg s n v).trans (sameOutside_setSr _ sr)) cpu

theorem runsTo_of_setMacl (runs : exec i s = .next ((s.setMacl v).advance row)) (value : v = w) :
    RunsTo i s { s.after row with macl := w } := by
  subst value
  exact runsTo_of_advance runs (sameOutside_setMacl s v) (s.setMacl_cpu v)

/-- The accumulator, written in a state `u` that differs from `s` in the active CPU alone. -/
theorem runsTo_of_setMac {acc : BitVec 64} (runs : exec i s = .next ((u.setMac acc).advance row))
    (frame : SameOutside s u) (cpu : u.cpu = c) :
    ∃ d, d.mach ++ d.macl = acc ∧
      d = { c with pc := c.pc + 2, cyclesElapsed := s.cost row, mach := d.mach, macl := d.macl } ∧ RunsTo i s d := by
  subst cpu
  refine ⟨_, ?_, ?_, runsTo_of_advance runs (frame.trans (sameOutside_setMac u acc)) (u.setMac_cpu acc)⟩
  · exact BitVec.extractLsb'_append_extractLsb'
  · rfl

end

/-! ### Sums and differences (R251 to R254, R279 to R283) -/

theorem toNat_ite_one (t : Bool) : (if t then (1 : Word) else 0).toNat = t.toNat := by
  cases t <;> rfl

/-- The carry or the borrow of a 32-bit operation is the top bit of the 33-bit one. -/
theorem getLsbD_32_eq_decide (x : BitVec 33) : x.getLsbD 32 = decide (2 ^ 32 ≤ x.toNat) :=
  (BitVec.msb_eq_getLsbD_last x).symm.trans (BitVec.msb_eq_decide x)

theorem addWithCarry_fst (a b : Word) (t : Bool) : (addWithCarry a b t).1 = a + b + (if t then 1 else 0) := by
  apply BitVec.eq_of_toNat_eq
  rw [addWithCarry, ← toNat_ite_one]
  generalize (if t then (1 : Word) else 0) = c
  bv_omega

/-- The carry out of three numbers below 2^32 whose last is a bit (R253). -/
theorem addWithCarry_snd (a b : Word) (t : Bool) : (addWithCarry a b t).2 =
    (a.setWidth 33 + b.setWidth 33 + (if t then (1 : Word) else 0).setWidth 33).getLsbD 32 := by
  have bit : (if t then (1 : Word) else 0).toNat ≤ 1 := toNat_ite_one t ▸ Bool.toNat_le t
  rw [addWithCarry, ← toNat_ite_one, getLsbD_32_eq_decide, decide_eq_decide]
  generalize (if t then (1 : Word) else 0) = c at bit
  bv_omega

theorem subWithBorrow_fst (a b : Word) (t : Bool) : (subWithBorrow a b t).1 = a - b - (if t then 1 else 0) := by
  apply BitVec.eq_of_toNat_eq
  rw [subWithBorrow, ← toNat_ite_one]
  generalize (if t then (1 : Word) else 0) = c
  bv_omega

/-- The borrow (R282): a difference below zero wraps to the upper half of the 33-bit numbers. -/
theorem subWithBorrow_snd (a b : Word) (t : Bool) : (subWithBorrow a b t).2 =
    (a.setWidth 33 - b.setWidth 33 - (if t then (1 : Word) else 0).setWidth 33).getLsbD 32 := by
  have bit : (if t then (1 : Word) else 0).toNat ≤ 1 := toNat_ite_one t ▸ Bool.toNat_le t
  rw [subWithBorrow, ← toNat_ite_one, getLsbD_32_eq_decide, decide_eq_decide]
  generalize (if t then (1 : Word) else 0) = c at bit
  bv_omega

theorem subWithBorrow_zero_fst (b : Word) (t : Bool) : (subWithBorrow 0 b t).1 = -b - (if t then 1 else 0) := by
  rw [subWithBorrow_fst, zero_sub]

/-- From zero everything borrows but zero itself. -/
theorem subWithBorrow_zero_snd (b : Word) (t : Bool) :
    (subWithBorrow 0 b t).2 = !(b == 0 && (if t then (1 : Word) else 0) == 0) := by
  rw [subWithBorrow, ← toNat_ite_one, beq_eq_decide, beq_eq_decide, ← Bool.decide_and, ← decide_not,
    decide_eq_decide]
  generalize (if t then (1 : Word) else 0) = c
  bv_omega

theorem signedOverflow_add (a b : Word) : signedOverflow (a.toInt + b.toInt) = a.saddOverflow b := by
  rw [signedOverflow, BitVec.saddOverflow, ← Bool.decide_or, decide_eq_decide]
  omega

theorem signedOverflow_sub (a b : Word) : signedOverflow (a.toInt - b.toInt) = a.ssubOverflow b := by
  rw [signedOverflow, BitVec.ssubOverflow, ← Bool.decide_or, decide_eq_decide]
  omega

theorem addWithOverflow_fst (a b : Word) : (addWithOverflow a b).1 = a + b := by
  rw [addWithOverflow, BitVec.ofInt_add, BitVec.ofInt_toInt, BitVec.ofInt_toInt]

theorem addWithOverflow_snd (a b : Word) :
    (addWithOverflow a b).2 = ((a.msb == b.msb) && ((a + b).msb != a.msb)) :=
  (signedOverflow_add a b).trans (BitVec.saddOverflow_eq a b)

theorem subWithOverflow_fst (a b : Word) : (subWithOverflow a b).1 = a - b := by
  apply BitVec.eq_of_toInt_eq
  rw [subWithOverflow, BitVec.toInt_ofInt, BitVec.toInt_sub]

theorem subWithOverflow_snd (a b : Word) :
    (subWithOverflow a b).2 = ((a.msb != b.msb) && ((a - b).msb != a.msb)) := by
  have signs : ∀ x y z : Bool, (!x && y && z || x && !y && !z) = ((x != y) && (z != x)) := by decide
  exact (signedOverflow_sub a b).trans ((BitVec.ssubOverflow_eq a b).trans (signs _ _ _))

/-- `DT` counts down to zero from one (R269). -/
theorem decide_sub_one_eq_zero (a : Word) : decide (a - 1 = 0) = (a == 1) :=
  decide_eq_decide.mpr sub_eq_zero

/-! ### Comparisons (R255 to R263) -/

theorem toInt_nonneg_eq_not_msb (a : Word) : decide (a.toInt ≥ 0) = !a.msb := by
  rw [BitVec.msb_eq_toInt, ← decide_not, decide_eq_decide, Int.not_lt]

theorem toInt_pos_eq_not_msb_and_ne (a : Word) : decide (a.toInt > 0) = (!a.msb && a != 0) := by
  rw [← toInt_nonneg_eq_not_msb, bne, beq_eq_decide, ← decide_not, ← Bool.decide_and, decide_eq_decide,
    ← BitVec.toInt_inj]
  exact lt_iff_le_and_ne.trans (and_congr_right' ne_comm)

/-- Two bytes are equal when they differ in no bit. -/
theorem extractLsb'_xor_beq_zero (a b : Word) (k : Nat) :
    ((a ^^^ b).extractLsb' k 8 == 0) = decide (a.extractLsb' k 8 = b.extractLsb' k 8) := by
  rw [BitVec.extractLsb'_xor, beq_eq_decide, decide_eq_decide]
  exact BitVec.xor_eq_zero_iff

theorem someByteEqual_eq (a b : Word) :
    someByteEqual a b = decide (∃ k : Fin 4, a.extractLsb' (8 * k) 8 = b.extractLsb' (8 * k) 8) := by
  simp only [someByteEqual, extractLsb'_xor_beq_zero, ← Bool.decide_or, decide_eq_decide]
  constructor
  · rintro (((same | same) | same) | same)
    exacts [⟨3, same⟩, ⟨2, same⟩, ⟨1, same⟩, ⟨0, same⟩]
  · rintro ⟨k, same⟩
    fin_cases k
    exacts [.inr same, .inl (.inr same), .inl (.inl (.inr same)), .inl (.inl (.inl same))]

/-! ### The division step (R264) -/

theorem getLsbD_32_add (x y : Word) :
    (x.setWidth 33 + y.setWidth 33).getLsbD 32 = decide (2 ^ 32 ≤ x.toNat + y.toNat) := by
  rw [getLsbD_32_eq_decide, decide_eq_decide]
  bv_omega

theorem getLsbD_32_sub (x y : Word) :
    (x.setWidth 33 - y.setWidth 33).getLsbD 32 = decide (x.toNat < y.toNat) := by
  rw [getLsbD_32_eq_decide, decide_eq_decide]
  bv_omega

/-- R264's subtraction or addition, in 33 bits. -/
theorem divStep_eq (a b : Word) (q m t : Bool) {shifted wide : BitVec 33}
    (hshifted : shifted = ((a <<< 1) ||| (if t then 1 else 0)).setWidth 33)
    (hwide : wide = if q = m then shifted - b.setWidth 33 else shifted + b.setWidth 33) :
    (divStep a b q m t).value = wide.setWidth 32 ∧
      (divStep a b q m t).q = ((a.msb ^^ m) ^^ wide.getLsbD 32) := by
  rw [divStep, zext_ofBool]
  generalize (a <<< 1) ||| (if t then 1 else 0) = x at hshifted
  subst hshifted hwide
  by_cases old : q = m
  · simp only [if_pos old]
    exact ⟨by bv_omega, by rw [getLsbD_32_sub]⟩
  · simp only [if_neg old]
    exact ⟨by bv_omega, by rw [getLsbD_32_add]⟩

/-! ### Products (R267, R268, R276 to R278) -/

theorem ofInt_mul_toInt {k : Nat} (w : Nat) (a b : BitVec k) :
    BitVec.ofInt w (a.toInt * b.toInt) = a.signExtend w * b.signExtend w :=
  BitVec.ofInt_mul _ _

theorem ofNat_mul_toNat {k : Nat} (w : Nat) (a b : BitVec k) :
    BitVec.ofNat w (a.toNat * b.toNat) = a.setWidth w * b.setWidth w := by
  rw [BitVec.ofNat_mul, BitVec.ofNat_toNat, BitVec.ofNat_toNat]

/-! ### Extensions (R270 to R273) -/

/-- Zero extension of the low bits is a mask. -/
theorem zext_extractLsb'_zero (a : Word) (k : Nat) {mask : Word} (ones : mask.toNat = 2 ^ k - 1) :
    zext (a.extractLsb' 0 k) = a &&& mask := by
  apply BitVec.eq_of_toNat_eq
  rw [BitVec.toNat_setWidth, BitVec.extractLsb'_toNat, Nat.shiftRight_zero, BitVec.toNat_and, ones,
    Nat.and_two_pow_sub_one_eq_mod]
  exact Nat.mod_eq_of_lt ((Nat.mod_le _ _).trans_lt a.isLt)

/-- Sign extension of the low bits is a shift to the top and back. -/
theorem sext_extractLsb'_zero (a : Word) {k l : Nat} (h : k + l = 32) (pos : 0 < k) :
    sext (a.extractLsb' 0 k) = (a <<< l).sshiftRight l := by
  apply BitVec.eq_of_getLsbD_eq
  intro i hi
  rw [BitVec.getLsbD_signExtend, BitVec.getLsbD_sshiftRight, BitVec.msb_eq_getLsbD_last, BitVec.msb_eq_getLsbD_last]
  simp only [BitVec.getLsbD_shiftLeft, BitVec.getLsbD_extractLsb']
  grind

/-! ### Multiply and accumulate (R274, R275) -/

/-- With S clear the sum wraps at 64 bits. -/
theorem macLong_of_not_saturate (mach macl a b : Word) (sat : MaclSat) :
    macLong mach macl a b false sat = (mach ++ macl : BitVec 64) + a.signExtend 64 * b.signExtend 64 := by
  rw [macLong, if_neg Bool.false_ne_true, BitVec.ofInt_add, ofInt_mul_toInt, BitVec.ofInt_toInt]

theorem macLong_saturate (mach macl a b : Word) (sat : MaclSat) : macLong mach macl a b true sat =
    BitVec.ofInt 64 (maclSaturate sat ((mach ++ macl : BitVec 64).toInt + a.toInt * b.toInt)) := rfl

theorem clamp48_bounds (v : Int) : -2 ^ 47 ≤ clamp48 v ∧ clamp48 v < 2 ^ 47 := by
  rw [clamp48]
  omega

/-- What is clamped to 48 bits fits in the 64 of the accumulator. -/
theorem toInt_ofInt_clamp48 (v : Int) : (BitVec.ofInt 64 (clamp48 v)).toInt = clamp48 v := by
  obtain ⟨low, high⟩ := clamp48_bounds v
  exact BitVec.toInt_ofInt_eq_self (by decide) (by omega) (by omega)

theorem macWord_of_not_saturate (mach macl : Word) (a b : Half) (lsb : Bool) :
    macWord mach macl a b false lsb = (mach ++ macl : BitVec 64) + a.signExtend 64 * b.signExtend 64 := by
  rw [macWord, if_neg Bool.false_ne_true, BitVec.ofInt_add, ofInt_mul_toInt, BitVec.ofInt_toInt]

section
variable {mach macl : Word} {a b : Half} {lsb : Bool}

/-- Above the signed range of MACL (R275). -/
theorem macWord_above (h : 2 ^ 31 ≤ macl.toInt + a.toInt * b.toInt) :
    macWord mach macl a b true lsb = (if lsb then mach ||| 1 else mach) ++ 0x7FFFFFFF#32 := by
  rw [macWord, if_pos rfl, if_pos (by omega)]

/-- Below the signed range of MACL (R275). -/
theorem macWord_below (h : macl.toInt + a.toInt * b.toInt < -2 ^ 31) :
    macWord mach macl a b true lsb = (if lsb then mach ||| 1 else mach) ++ 0x80000000#32 := by
  rw [macWord, if_pos rfl, if_neg (by omega), if_pos h]

/-- Within the signed range of MACL the sum is kept as it is (R275). -/
theorem macWord_within (low : -2 ^ 31 ≤ macl.toInt + a.toInt * b.toInt)
    (high : macl.toInt + a.toInt * b.toInt < 2 ^ 31) :
    macWord mach macl a b true lsb = mach ++ BitVec.ofInt 32 (macl.toInt + a.toInt * b.toInt) := by
  rw [macWord, if_pos rfl, if_neg (by omega), if_neg (by omega)]

end

/-- The halves of an accumulator are determined by it. -/
theorem word_append_inj {x y x' y' : Word} : x ++ y = x' ++ y' ↔ x = x' ∧ y = y' := by
  refine ⟨fun h => ⟨?_, ?_⟩, fun ⟨hx, hy⟩ => by rw [hx, hy]⟩
  · rw [← BitVec.extractLsb'_append_eq_left (a := x) (b := y), h, BitVec.extractLsb'_append_eq_left]
  · rw [← BitVec.extractLsb'_append_eq_right (a := x) (b := y), h, BitVec.extractLsb'_append_eq_right]

/-! ### The two operands of a multiply and accumulate -/

section
variable {s : State} {m n : Reg} {am : Word}

theorem popWord_plain {v : Half} (h : plainHalf s (s.reg n) = some v) :
    popWord n s = .next (v, s.setReg n (s.reg n + 2)) := by
  simp only [popWord, memRead16_plain h, andThen_next]

/-- The state after both pointers have advanced: the register read second, at `am` then, is written last, so that one
register used twice advances twice. -/
def State.advancePointers (s : State) (m n : Reg) (am step : Word) : State :=
  (s.setReg n (s.reg n + step)).setReg m (am + step)

theorem sameOutside_advancePointers (s : State) (m n : Reg) (am step : Word) :
    SameOutside s (s.advancePointers m n am step) :=
  (sameOutside_setReg s n _).trans (sameOutside_setReg _ m _)

theorem State.advancePointers_cpu (s : State) (m n : Reg) (am step : Word) : (s.advancePointers m n am step).cpu =
    { s.cpu with r := (s.cpu.r.set n (s.cpu.r.get n + step)).set m (am + step) } := by
  rw [State.advancePointers, State.setReg_cpu, State.setReg_cpu]
  rfl

/-- `MAC.L` on plain operands (R274). -/
theorem exec_macL_plain {a b : Word} (first : plainLong s (s.reg n) = some a)
    (pointer : am = if m = n then s.reg n + 4 else s.reg m) (second : plainLong s am = some b) :
    exec (.macL m n) s = .next (((s.advancePointers m n am 4).setMac
      (macLong s.cpu.mach s.cpu.macl a b s.cpu.sr.s s.config.maclSat)).advance .multiplyAccumulate) := by
  rw [← State.reg_setReg] at pointer
  subst pointer
  have next := popLong_plain (s := s.setReg n (s.reg n + 4)) second
  show execMacL m n s = _
  simp only [execMacL, popLong_plain first, andThen_next, next, State.setReg_cpu, State.setReg_config,
    State.advancePointers]

/-- `MAC.W` on plain operands (R275). -/
theorem exec_macW_plain {a b : Half} (first : plainHalf s (s.reg n) = some a)
    (pointer : am = if m = n then s.reg n + 2 else s.reg m) (second : plainHalf s am = some b) :
    exec (.macW m n) s = .next (((s.advancePointers m n am 2).setMac
      (macWord s.cpu.mach s.cpu.macl a b s.cpu.sr.s s.config.macwSatSetsMachLsb)).advance .multiplyAccumulate) := by
  rw [← State.reg_setReg] at pointer
  subst pointer
  have next := popWord_plain (s := s.setReg n (s.reg n + 2)) second
  show execMacW m n s = _
  simp only [execMacW, popWord_plain first, andThen_next, next, State.setReg_cpu, State.setReg_config,
    State.advancePointers]

end

end Sys2Proof.Machine

namespace Sys2Proof.Proofs

open Sys2Proof.Machine

/-- Settles O13: each result and flag is the model's sum or difference, which agrees with the 33-bit one and with the
signs of operands and result. -/
theorem additionsAndSubtractions : Obligations.additions_and_subtractions := by
  rintro s m n imm a b t rfl rfl rfl
  exact ⟨runsTo_of_setReg rfl, runsTo_of_setReg rfl,
    runsTo_of_setRegT rfl (addWithCarry_fst _ _ _) (addWithCarry_snd _ _ _),
    runsTo_of_setRegT rfl (addWithOverflow_fst _ _) (addWithOverflow_snd _ _),
    runsTo_of_setReg rfl,
    runsTo_of_setRegT rfl (subWithBorrow_fst _ _ _) (subWithBorrow_snd _ _ _),
    runsTo_of_setRegT rfl (subWithOverflow_fst _ _) (subWithOverflow_snd _ _),
    runsTo_of_setReg_eq rfl (BitVec.zero_sub _),
    runsTo_of_setRegT rfl (subWithBorrow_zero_fst _ _) (subWithBorrow_zero_snd _ _)⟩

/-- Settles O14: the model compares numbers, which is what the orders of bit vectors do by definition; the signs of
`CMP/PL` and `CMP/PZ` and the bytes of `CMP/STR` are read off by lemmas above. -/
theorem comparisons : Obligations.comparisons := by
  rintro s m n imm a b rfl rfl
  exact ⟨runsTo_of_testT rfl rfl, runsTo_of_testT rfl rfl, runsTo_of_testT rfl rfl, runsTo_of_testT rfl rfl,
    runsTo_of_testT rfl rfl, runsTo_of_testT rfl rfl,
    runsTo_of_testT rfl (toInt_pos_eq_not_msb_and_ne _), runsTo_of_testT rfl (toInt_nonneg_eq_not_msb _),
    runsTo_of_testT rfl (someByteEqual_eq _ _)⟩

/-- Settles O15: the model's division step is R264's in 33 bits. -/
theorem divisionSteps : Obligations.division_steps := by
  rintro s m n a b wide shifted q rfl rfl hshifted hwide rfl
  obtain ⟨value, flag⟩ := divStep_eq _ _ _ _ _ hshifted hwide
  refine ⟨?_, runsTo_of_setSr rfl, runsTo_of_setSr rfl⟩
  rw [← value, ← flag]
  exact runsTo_of_setReg_setSr rfl

/-- Settles O16: a product of numbers, narrowed to a width, is the product of the factors extended to that width. -/
theorem multiplies : Obligations.multiplies := by
  rintro s m n a b rfl rfl
  refine ⟨?_, ?_, runsTo_of_setMacl rfl rfl, runsTo_of_setMacl rfl ?_,
    runsTo_of_setMacl rfl (congrArg₂ _ (zext_extractLsb'_zero _ 16 rfl) (zext_extractLsb'_zero _ 16 rfl))⟩
  · rw [← ofInt_mul_toInt]
    exact runsTo_of_setMac (i := .dmulsl m n) rfl (.refl s) rfl
  · rw [← ofNat_mul_toNat]
    exact runsTo_of_setMac (i := .dmulul m n) rfl (.refl s) rfl
  · rw [ofInt_mul_toInt, BitVec.setWidth_eq_extractLsb' (by decide), BitVec.setWidth_eq_extractLsb' (by decide)]
    rfl

/-- Settles O19: an extension of the low bits is a mask, or a shift to the top and back. -/
theorem extensionsAndDecrement : Obligations.extensions_and_decrement := by
  rintro s m n b rfl
  exact ⟨runsTo_of_setReg_eq rfl (sext_extractLsb'_zero _ rfl (by decide)),
    runsTo_of_setReg_eq rfl (sext_extractLsb'_zero _ rfl (by decide)),
    runsTo_of_setReg_eq rfl (zext_extractLsb'_zero _ 8 rfl),
    runsTo_of_setReg_eq rfl (zext_extractLsb'_zero _ 16 rfl),
    runsTo_of_setRegT rfl rfl (decide_sub_one_eq_zero _)⟩

/-- Settles O17: after both pops the accumulator takes the sum, wrapped or saturated. -/
theorem multiplyAccumulateLongwords : Obligations.multiply_accumulate_longwords := by
  rintro s m n am a b acc rfl first pointer second
  obtain ⟨c, accumulator, cpu, runs⟩ := runsTo_of_setMac (exec_macL_plain first pointer second)
    (sameOutside_advancePointers s m n am 4) (s.advancePointers_cpu m n am 4)
  refine ⟨c, cpu, ?_, ?_, ?_, runs⟩
  · intro clear
    rw [accumulator, clear, macLong_of_not_saturate]
  · intro saturates clamp
    rw [accumulator, saturates, clamp, macLong_saturate]
    exact toInt_ofInt_clamp48 _
  · intro saturates other
    rw [accumulator, saturates, other]
    rfl

/-- Settles O18: after both pops MACL takes the sum, or a bound of its range. -/
theorem multiplyAccumulateWords : Obligations.multiply_accumulate_words := by
  rintro s m n am a b p r acc sat rfl rfl rfl first pointer second rfl
  obtain ⟨c, accumulator, cpu, runs⟩ := runsTo_of_setMac (exec_macW_plain first pointer second)
    (sameOutside_advancePointers s m n am 2) (s.advancePointers_cpu m n am 2)
  refine ⟨c, cpu, ?_, ?_, ?_, ?_, runs⟩
  · intro clear
    rw [accumulator, clear, macWord_of_not_saturate]
  · intro saturates above
    rwa [saturates, macWord_above above, word_append_inj] at accumulator
  · intro saturates below
    rwa [saturates, macWord_below below, word_append_inj] at accumulator
  · intro saturates low high
    rw [saturates, macWord_within low high, word_append_inj] at accumulator
    obtain ⟨mach, macl⟩ := accumulator
    exact ⟨mach, by rw [macl, BitVec.toInt_ofInt_eq_self (by decide) low high]⟩

end Sys2Proof.Proofs
end

section
/-!
SUPPORT. The logic and shift instructions: a byte read and written back at one plain address, a word as its high bits
and its low byte, and the model's concatenations as the shifts and rotations of the spec (R291 to R318).
-/

namespace Sys2Proof.Machine

/-! ### A byte read and written back (R290 (c), R298) -/

theorem plainPlace_of_plainByte {s : State} {a : Word} {v : Byte} (plain : plainByte s a = some v) :
    plainPlace s a = true := by
  unfold plainByte at plain
  unfold plainPlace
  split at plain
  case h_1 | h_2 => rfl
  case h_3 => cases plain

section
variable {i : Instr} {s : State} {a : Word} {v : Byte}

/-- At a plain address the read changes nothing and the write storage alone, so that what the instruction leaves of the
active CPU is what `finish` makes of it. -/
theorem runsStoring_of_modifyByte {f : Byte → Byte} {finish : Byte → State → State} {c : Cpu}
    (plain : plainByte s a = some v)
    (runs : exec i s =
      andThen (memRead8 a s) fun x => andThen (memWrite8 a (f x.1) x.2) fun u => .next (finish x.1 u))
    (frame : ∀ u, SameOutside u (finish v u)) (active : ∀ m : Memory, (finish v { s with mem := m }).cpu = c) :
    RunsStoring i s c (stored s a 1 (f v)) := by
  rw [memRead8_plain plain, andThen_next] at runs
  have writes := memWrite8_plain (f v) (plainPlace_of_plainByte plain)
  rw [BitVec.extractLsb'_eq_self] at writes
  exact (follows_of_andThen (after := id) runs (fun _ => rfl) frame).runsStoring writes active

theorem runsStoring_of_modifyGbrByte {f : Byte → Byte} (runs : exec i s = modifyGbrByte f s)
    (plain : plainByte s (eaGbrIndexed s) = some v) :
    RunsStoring i s (s.after .memoryLogic) (stored s (eaGbrIndexed s) 1 (f v)) :=
  runsStoring_of_modifyByte (finish := fun _ u => u.advance .memoryLogic) plain runs (fun _ => sameOutside_mapCpu _ _)
    fun m => (State.advance_cpu _ _).trans (s.withMem_after m _)

theorem runsStoring_tasb {n : Reg} (plain : plainByte s (s.reg n) = some v) :
    RunsStoring (.tasb n) s { s.after .testAndSet with sr := { s.cpu.sr with t := v == 0 } }
      (stored s (s.reg n) 1 (v ||| 0x80)) := by
  refine runsStoring_of_modifyByte (f := (· ||| 0x80))
    (finish := fun b u => (u.setT (decide (b = 0))).advance .testAndSet) plain rfl
    (fun u => (sameOutside_setT u _).trans (sameOutside_mapCpu _ _)) fun m => ?_
  rw [State.advance_cpu, State.setT_cpu, State.withMem_cpu]
  rfl

theorem runsTo_tstbGbr {imm : Byte} (plain : plainByte s (eaGbrIndexed s) = some v) :
    RunsTo (.tstbGbr imm) s { s.after .memoryLogic with sr := { s.cpu.sr with t := v &&& imm == 0 } } := by
  have runs : exec (.tstbGbr imm) s = .next ((s.setT (v &&& imm == 0)).advance .memoryLogic) := by
    show execTstbGbr imm s = _
    rw [execTstbGbr, memRead8_plain plain]
    rfl
  exact runsTo_of_advance runs (sameOutside_setT s _) (s.setT_cpu _)

end

/-! ### Immediates of one byte (R290 (b)) -/

theorem highBits_append_lowByte (z : Word) : z.extractLsb' 8 24 ++ z.setWidth 8 = z := by
  rw [BitVec.setWidth_eq_extractLsb' (by decide)]
  exact BitVec.extractLsb'_append_extractLsb'

theorem zext_byte_eq_append (b : Byte) : zext b = 0#24 ++ b :=
  BitVec.setWidth_eq_append (by decide)

theorem and_zext_byte (z : Word) (b : Byte) : z &&& zext b = 0#24 ++ (z.setWidth 8 &&& b) := by
  conv => lhs; rw [← highBits_append_lowByte z, zext_byte_eq_append, BitVec.and_append, BitVec.and_zero]

theorem or_zext_byte (z : Word) (b : Byte) : z ||| zext b = z.extractLsb' 8 24 ++ (z.setWidth 8 ||| b) := by
  conv => lhs; rw [← highBits_append_lowByte z, zext_byte_eq_append, BitVec.or_append, BitVec.or_zero]

theorem xor_zext_byte (z : Word) (b : Byte) : z ^^^ zext b = z.extractLsb' 8 24 ++ (z.setWidth 8 ^^^ b) := by
  conv => lhs; rw [← highBits_append_lowByte z, zext_byte_eq_append, BitVec.xor_append, BitVec.xor_zero]

/-- The high bits of the mask are zero, so the test sees the low byte alone. -/
theorem and_zext_byte_eq_zero (z : Word) (b : Byte) : decide (z &&& zext b = 0) = (z.setWidth 8 &&& b == 0) := by
  have zero : (0 : Word) = 0#24 ++ (0 : Byte) := rfl
  rw [and_zext_byte, zero, Bool.eq_iff_iff, decide_eq_true_iff, beq_iff_eq]
  refine ⟨fun h => ?_, congrArg (0#24 ++ ·)⟩
  rw [← BitVec.setWidth_append_eq_right (a := 0#24) (b := z.setWidth 8 &&& b), h, BitVec.setWidth_append_eq_right]

/-! ### Shifts and rotations by one bit (R305 to R312) -/

theorem shiftLeft_eq_append (a : Word) : a <<< 1 = a.extractLsb' 0 31 ++ 0#1 :=
  BitVec.shiftLeft_eq_concat_of_lt (by decide)

theorem ushiftRight_eq_append (a : Word) : a >>> 1 = 0#1 ++ a.extractLsb' 1 31 :=
  BitVec.ushiftRight_eq_extractLsb'_of_lt (by decide)

theorem shiftLeft_fst (a : Word) : (shiftLeft a).1 = a + a := by
  rw [← BitVec.mul_two]
  exact (shiftLeft_eq_append a).symm.trans (mul_two_eq_shiftLeft a).symm

theorem shiftRight_fst (a : Word) : (shiftRight a).1 = a >>> 1 :=
  (ushiftRight_eq_append a).symm

/-- Bit by bit: bit 31 is the sign, and every other bit is the one above it. -/
theorem shiftRightArith_fst (a : Word) : (shiftRightArith a).1 = a.sshiftRight 1 := by
  apply BitVec.eq_of_getLsbD_eq
  intro k hk
  rw [shiftRightArith, BitVec.getLsbD_append, BitVec.getLsbD_sshiftRight, BitVec.msb_eq_getLsbD_last]
  simp only [BitVec.getLsbD_extractLsb']
  grind

theorem rotateLeftT_fst (a : Word) (t : Bool) : (rotateLeftT a t).1 = (a <<< 1) ||| (if t then 1 else 0) := by
  have low : zext (BitVec.ofBool t) = 0#31 ++ BitVec.ofBool t := BitVec.setWidth_eq_append (by decide)
  rw [← zext_ofBool, low, shiftLeft_eq_append, BitVec.or_append, BitVec.or_zero, BitVec.zero_or, rotateLeftT]

theorem rotateRightT_fst (a : Word) (t : Bool) :
    (rotateRightT a t).1 = (a >>> 1) ||| ((if t then 1 else 0 : Word) <<< 31) := by
  have high : (if t then 1 else 0 : Word) <<< 31 = BitVec.ofBool t ++ 0#31 := by cases t <;> rfl
  rw [high, ushiftRight_eq_append, BitVec.or_append, BitVec.or_zero, BitVec.zero_or, rotateRightT]

theorem rotateLeft_fst (a : Word) : (rotateLeft a).1 = a.rotateLeft 1 := by
  have low : a >>> 31 = 0#31 ++ a.extractLsb' 31 1 := BitVec.ushiftRight_eq_extractLsb'_of_lt (by decide)
  rw [BitVec.rotateLeft_def]
  show _ = (a <<< 1) ||| (a >>> 31)
  rw [low, shiftLeft_eq_append, BitVec.or_append, BitVec.or_zero, BitVec.zero_or, rotateLeft]

theorem rotateRight_fst (a : Word) : (rotateRight a).1 = a.rotateRight 1 := by
  have high : a <<< 31 = a.extractLsb' 0 1 ++ 0#31 := BitVec.shiftLeft_eq_concat_of_lt (by decide)
  rw [BitVec.rotateRight_def]
  show _ = (a >>> 1) ||| (a <<< 31)
  rw [high, ushiftRight_eq_append, BitVec.or_append, BitVec.or_zero, BitVec.zero_or, rotateRight]

/-! ### Shifts by 2, 8 and 16 bits (R313 to R318) -/

theorem shiftLeft_eq_mul (a : Word) {c : Word} {k : Nat} (power : BitVec.twoPow 32 k = c) : a <<< k = a * c := by
  rw [BitVec.shiftLeft_eq_mul_twoPow, power]

theorem ushiftRight_eq_udiv (a : Word) {c : Word} {k : Nat} (power : BitVec.twoPow 32 k = c) (hk : k < 32) :
    a >>> k = a / c := by
  rw [← BitVec.udiv_twoPow_eq_of_lt hk, power]

end Sys2Proof.Machine

namespace Sys2Proof.Proofs

open Sys2Proof.Machine

/-- Settles O20: a zero-extended immediate leaves the high bits of R0 to the operation with zero. -/
theorem registerLogic : Obligations.register_logic := by
  rintro s m n imm a b z rfl rfl rfl
  exact ⟨runsTo_of_setReg rfl, runsTo_of_setReg rfl, runsTo_of_setReg rfl,
    runsTo_of_setReg_eq rfl BitVec.xor_allOnes.symm,
    runsTo_of_setReg_eq (n := 0) rfl (and_zext_byte _ _),
    runsTo_of_setReg_eq (n := 0) rfl (or_zext_byte _ _),
    runsTo_of_setReg_eq (n := 0) rfl (xor_zext_byte _ _),
    runsTo_of_testT rfl rfl, runsTo_of_testT rfl (and_zext_byte_eq_zero _ _)⟩

/-- Settles O21: three of the operations are `modifyGbrByte`; `TST.B` is its read, and `TAS.B` is at a register. -/
theorem memoryLogic : Obligations.memory_logic := by
  intro s n imm v a
  refine ⟨?_, ?_⟩
  · rintro rfl plain
    exact ⟨runsStoring_of_modifyGbrByte (f := (· &&& imm)) rfl plain,
      runsStoring_of_modifyGbrByte (f := (· ||| imm)) rfl plain,
      runsStoring_of_modifyGbrByte (f := (· ^^^ imm)) rfl plain, runsTo_tstbGbr plain⟩
  · rintro rfl plain
    exact runsStoring_tasb plain

/-- Settles O22: by one bit, the result is the concatenation of the model and T the bit it drops; by 2, 8 and 16 bits,
a shift is a product with, or a quotient by, a power of two. -/
theorem rotatesAndShifts : Obligations.rotates_and_shifts := by
  rintro s n a t rfl rfl
  have msb (v : Word) : v.getLsbD 31 = v.msb := (BitVec.msb_eq_getLsbD_last v).symm
  exact ⟨runsTo_of_setRegT rfl (rotateLeft_fst _) (msb _),
    runsTo_of_setRegT rfl (rotateRight_fst _) rfl,
    runsTo_of_setRegT rfl (rotateLeftT_fst _ _) (msb _),
    runsTo_of_setRegT rfl (rotateRightT_fst _ _) rfl,
    runsTo_of_setRegT rfl (shiftLeft_fst _) (msb _),
    runsTo_of_setRegT rfl (shiftRightArith_fst _) rfl,
    runsTo_of_setRegT rfl (shiftLeft_fst _) (msb _),
    runsTo_of_setRegT rfl (shiftRight_fst _) rfl,
    runsTo_of_setReg_eq rfl (shiftLeft_eq_mul _ rfl), runsTo_of_setReg_eq rfl (ushiftRight_eq_udiv _ rfl (by decide)),
    runsTo_of_setReg_eq rfl (shiftLeft_eq_mul _ rfl), runsTo_of_setReg_eq rfl (ushiftRight_eq_udiv _ rfl (by decide)),
    runsTo_of_setReg_eq rfl (shiftLeft_eq_mul _ rfl), runsTo_of_setReg_eq rfl (ushiftRight_eq_udiv _ rfl (by decide))⟩

end Sys2Proof.Proofs
end

section
/-!
SUPPORT. The branches: a conditional branch that sets the pc in its own step, one that goes on to the next instruction,
and a taken delayed branch with a `NOP` in its slot (R177, R184, R330 to R341).
-/

namespace Sys2Proof.Machine

/-! ### Branches without a slot (R177, R331 to R334) -/

/-- A delayed branch that its capture completes has no slot (R177). -/
theorem delayedBranch_done {capture : State → Result Flow} {s t : State} (captured : capture s = .next (.done t)) :
    delayedBranch capture s = .next t := by
  rw [delayedBranch, captured]
  rfl

section
variable {i : Instr} {s : State}

/-- A taken branch without a slot: its target, and the cost of a taken one. -/
theorem runsTo_of_branchTarget {n : Nat} {d : BitVec n} {target : Word} {cost : Nat}
    (runs : exec i s = .next ((s.setPc (branchTarget d s)).setCycles cost))
    (targetEq : target = s.cpu.pc + (4 : Word) + (sext d <<< 1)) : RunsTo i s (s.cpu.arrived target cost) := by
  rw [branchTarget_eq, ← targetEq] at runs
  refine ⟨_, runs, ?_, (sameOutside_mapCpu s _).trans (sameOutside_mapCpu _ _)⟩
  rw [State.setCycles_cpu, State.setPc_cpu, Cpu.arrived]

/-- A branch that is not taken goes on to the next instruction. -/
theorem runsTo_after {row : CycleRow} (runs : exec i s = .next (s.advance row)) : RunsTo i s (s.after row) :=
  runsTo_of_advance runs (SameOutside.refl s) rfl

end

/-! ### Delayed branches over a `NOP` (R184, R186) -/

/-- `NOP` changes neither what the capture left nor the target, and adds the cost of a simple instruction. -/
theorem TakesSlot.runsTo_over_nop {s : State} {i : Instr} {c : Cpu} {target : Word} {cost : Nat}
    (h : TakesSlot s i c target cost) (plain : plainHalf s (s.cpu.pc + 2) = some 0x0009) :
    RunsTo i s (c.arrived target (cost + s.cost .simple)) := by
  have decoded : decodeWord 0x0009 = some .nop := decodeWord_encode .nop
  rw [← plainHalf_mapCpu s fun _ => c] at plain
  have slot := runSlot_completed plain decoded (.inr rfl) rfl rfl rfl
  obtain ⟨t, runs, active, frame⟩ := h.commits slot
  refine ⟨t, runs, active.trans ?_, ?_⟩
  · rw [State.simple_cpu, State.setPc_cpu, State.mapCpu_cpu]
    rfl
  · rw [State.setPc_mapCpu_const] at frame
    exact ((sameOutside_mapCpu s _).trans (sameOutside_simple _)).trans frame

end Sys2Proof.Machine

namespace Sys2Proof.Proofs

open Sys2Proof.Machine

/-- Settles O28: T chooses between the branch's own commit and the next instruction; not taken, the two delayed forms
are complete before a slot is due. -/
theorem conditionalBranchesWithoutSlot : Obligations.conditional_branches_without_slot := by
  intro s disp target targetEq
  refine ⟨fun tSet => ?_, fun tClear => ?_⟩
  · exact ⟨runsTo_of_branchTarget (d := disp) (if_pos tSet) targetEq, runsTo_after (if_pos tSet),
      runsTo_after (delayedBranch_done (if_pos tSet))⟩
  · have notSet : ¬ s.cpu.sr.t = true := Bool.eq_false_iff.mp tClear
    exact ⟨runsTo_of_branchTarget (d := disp) (if_neg notSet) targetEq, runsTo_after (if_neg notSet),
      runsTo_after (delayedBranch_done (if_neg notSet))⟩

/-- Settles O29: each of the nine is taken, with the capture that `TakesSlot` lists for it. -/
theorem delayedBranchesOverNop : Obligations.delayed_branches_over_nop := by
  rintro s m d8 d12 pc jump conditional rfl _ plain rfl rfl
  exact ⟨(TakesSlot.bra d12).runsTo_over_nop plain, (TakesSlot.braf m).runsTo_over_nop plain,
    (TakesSlot.jmp m).runsTo_over_nop plain, TakesSlot.rts.runsTo_over_nop plain,
    (TakesSlot.bsr d12).runsTo_over_nop plain, (TakesSlot.bsrf m).runsTo_over_nop plain,
    (TakesSlot.jsr m).runsTo_over_nop plain,
    fun tSet => (TakesSlot.bts d8 tSet).runsTo_over_nop plain,
    fun tClear => (TakesSlot.bfs d8 tClear).runsTo_over_nop plain⟩

end Sys2Proof.Proofs
end

section
/-!
SUPPORT. The system control instructions: SR as the word of its ten bits, the loads and stores of one control register
through a pointer, and the frame that taking an exception pushes (R350 to R381).
-/

namespace Sys2Proof.Machine

/-! ### SR as a word (R26, R27, R350 (b), (c)) -/

theorem ofBool_getLsbD (w : Word) (k : Nat) : BitVec.ofBool (w.getLsbD k) = w.extractLsb' k 1 := by
  apply BitVec.eq_of_getLsbD_eq
  intro j hj
  obtain rfl : j = 0 := by omega
  simp

/-- A word that is written to SR reads back as its ten bits: slice by slice, each kept whole or dropped. -/
theorem SR.toWord_ofWord (w : Word) : (SR.ofWord w).toWord = w &&& 0x000003F3 := by
  have slices : w.extractLsb' 10 22 ++ w.extractLsb' 9 1 ++ w.extractLsb' 8 1 ++ w.extractLsb' 4 4 ++
      w.extractLsb' 2 2 ++ w.extractLsb' 1 1 ++ w.extractLsb' 0 1 = w := by
    simp only [BitVec.extractLsb'_append_extractLsb'_eq_extractLsb']
    exact BitVec.extractLsb'_eq_self
  have mask : 0#22 ++ BitVec.allOnes 1 ++ BitVec.allOnes 1 ++ BitVec.allOnes 4 ++ 0#2 ++ BitVec.allOnes 1 ++
      BitVec.allOnes 1 = (0x000003F3 : Word) := by
    decide
  have kept := congrArg₂ (· &&& ·) slices mask
  simp only [BitVec.and_append, BitVec.and_zero, BitVec.and_allOnes] at kept
  rw [SR.toWord, SR.ofWord]
  simp only [ofBool_getLsbD]
  exact kept

/-- SR as R350 (c) writes it; by the 256 values that SR has. -/
theorem SR.toWord_eq_or (sr : SR) : sr.toWord =
    ((if sr.m then 1#32 else 0) <<< 9) ||| ((if sr.q then 1#32 else 0) <<< 8) ||| (zext sr.i <<< 4) |||
      ((if sr.s then 1#32 else 0) <<< 1) ||| (if sr.t then 1#32 else 0) := by
  rcases sr with ⟨m, q, i, s, t⟩
  revert m q i s t
  decide

section
variable {i : Instr} {s : State} {n : Reg} {row : CycleRow} {a v : Word} {c : Cpu}

/-! ### Instructions that change their own CPU alone (R24, R162) -/

/-- An instruction that makes one update of its own CPU and goes on to the next one. -/
theorem runsTo_of_mapCpu {f : Cpu → Cpu} (runs : exec i s = .next ((s.mapCpu f).advance row))
    (cpu : c = (f s.cpu).arrived ((f s.cpu).pc + 2) (s.cost row)) : RunsTo i s c := by
  subst cpu
  exact runsTo_of_advance runs (sameOutside_mapCpu s f) (s.mapCpu_cpu f)

/-- `CLRMAC` (R352). -/
theorem runsTo_clrmac (s : State) : RunsTo .clrmac s { s.after .simple with mach := 0, macl := 0 } := by
  have cpu : ((s.setMach 0).setMacl 0).cpu = { s.cpu with mach := 0, macl := 0 } := by
    rw [State.setMacl_cpu, State.setMach_cpu]
  exact runsTo_of_advance (row := .simple) rfl ((sameOutside_setMach s 0).trans (sameOutside_setMacl _ 0)) cpu

/-! ### Control and system registers popped and pushed (R356, R362, R372, R378) -/

theorem loadPop_plain {put : State → Word → State} (plain : plainLong s (s.reg n) = some v) :
    loadPop n put row s = .next ((put (s.setReg n (s.reg n + 4)) v).advance row) := by
  rw [loadPop, popLong_plain plain, andThen_next]

/-- At a plain address the pointer moves, and then the register named takes the longword. -/
theorem runsTo_of_loadPop {put : State → Word → State} {f : Cpu → Cpu} {d : Cpu}
    (runs : exec i s = loadPop n put row s) (plain : plainLong s (s.reg n) = some v)
    (puts : ∀ u, put u v = u.mapCpu f) (popped : d = f (s.cpu.setReg n (s.reg n + 4)))
    (cpu : c = d.arrived (d.pc + 2) (s.cost row)) : RunsTo i s c := by
  subst popped
  rw [loadPop_plain plain, puts, State.setReg, State.mapCpu_mapCpu] at runs
  exact runsTo_of_mapCpu runs cpu

theorem storePush_eq (n : Reg) (v : Word) (row : CycleRow) (s : State) : storePush n v row s =
    andThen (memWrite32 (s.reg n - 4) v s) fun u => .next ((u.setReg n (s.reg n - 4)).advance row) := by
  rw [storePush, pushLong]
  cases memWrite32 (s.reg n - 4) v s <;> rfl

/-- At a plain address the longword is stored below the pointer, which moves there. -/
theorem runsStoring_of_storePush (runs : exec i s = storePush n v row s) (address : a = s.reg n - 4)
    (aligned : a.toNat % 4 = 0) (plain : plainPlace s a = true) :
    RunsStoring i s { s.after row with r := s.cpu.r.set n a } (stored s a 4 v) := by
  rw [storePush_eq, ← address] at runs
  have frame (u : State) : SameOutside u ((u.setReg n a).advance row) :=
    (sameOutside_setReg u n a).trans (sameOutside_mapCpu _ _)
  refine (follows_of_andThen (after := id) runs (fun _ => rfl) frame).runsStoring (memWrite32_plain v aligned plain)
    fun m => ?_
  rw [State.advance_cpu, State.setReg_cpu, State.withMem_cpu]
  rfl

end

/-! ### Longwords in storage (R85, R86) -/

theorem plainLong_storage {s : State} {a : Word} {p : Nat} {w : Bool} (aligned : a.toNat % 4 = 0)
    (place : s.place a = .storage p w) : plainLong s a = some (s.mem.read32 p) := by
  rw [plainLong, if_pos aligned, place]
  rfl

theorem add_shift_two_aligned {a : Word} (x : Word) (h : a.toNat % 4 = 0) : (a + (x <<< 2)).toNat % 4 = 0 := by
  rw [BitVec.toNat_add, BitVec.toNat_shiftLeft, Nat.shiftLeft_eq]
  omega

/-- The contents of storage after a longword is stored, as the statements write them. -/
theorem Memory.read_write32_eq_putBytes (m : Memory) (p : Nat) (v : Word) :
    (m.write32 p v).read = putBytes m.read p 4 v := by
  funext q
  rw [Memory.read_write32, putBytes]
  by_cases within : p ≤ q ∧ q < p + 4
  · obtain ⟨k, rfl⟩ : ∃ k, q = p + k := ⟨q - p, by omega⟩
    have four : k = 0 ∨ k = 1 ∨ k = 2 ∨ k = 3 := by omega
    rcases four with rfl | rfl | rfl | rfl <;> simp
  · rw [if_neg (by omega), if_neg (by omega), if_neg (by omega), if_neg (by omega), if_neg within]

/-! ### Taking an exception with its stack in writable storage (R366, R534, R536) -/

/-- The state after a frame is pushed on R15: `upper` at the physical address `p1`, then `lower` at `p0`. -/
def State.withFrame (s : State) (p1 p0 : Nat) (upper lower : Word) : State :=
  { s.setReg Reg.sp (s.reg Reg.sp - 8) with mem := (s.mem.write32 p1 upper).write32 p0 lower }

section
variable {s : State} {p1 p0 : Nat}

theorem State.withFrame_cpu (s : State) (p1 p0 : Nat) (upper lower : Word) :
    (s.withFrame p1 p0 upper lower).cpu = { s.cpu with r := s.cpu.r.set 15 (s.cpu.r.get 15 - 8) } := by
  rw [State.withFrame, State.withMem_cpu, State.setReg_cpu]
  rfl

theorem State.withFrame_other (s : State) (p1 p0 : Nat) (upper lower : Word) :
    (s.withFrame p1 p0 upper lower).other = s.other := by
  rw [State.withFrame, State.withMem_other, State.setReg_other]

theorem State.withFrame_read (s : State) (p1 p0 : Nat) (upper lower : Word) :
    (s.withFrame p1 p0 upper lower).mem.read = putBytes (putBytes s.mem.read p1 4 upper) p0 4 lower := by
  rw [← Memory.read_write32_eq_putBytes, ← Memory.read_write32_eq_putBytes]
  rfl

/-- The first push. -/
theorem pushFrameWord_storage (v : Word) (aligned : (s.reg Reg.sp).toNat % 4 = 0)
    (place : s.place (s.reg Reg.sp - 4) = .storage p1 true) :
    pushFrameWord v s = .next { s.setReg Reg.sp (s.reg Reg.sp - 4) with mem := s.mem.write32 p1 v } := by
  rw [pushFrameWord_eq]
  exact memWrite32_storage v (by bv_omega) place

/-- The second push, in the state that the first one leaves. -/
theorem pushFrameWord_pushed (upper lower : Word) (aligned : (s.reg Reg.sp).toNat % 4 = 0)
    (place0 : s.place (s.reg Reg.sp - 8) = .storage p0 true) :
    pushFrameWord lower { s.setReg Reg.sp (s.reg Reg.sp - 4) with mem := s.mem.write32 p1 upper } =
      .next (s.withFrame p1 p0 upper lower) := by
  set u : State := { s.setReg Reg.sp (s.reg Reg.sp - 4) with mem := s.mem.write32 p1 upper } with u_def
  have sp : u.reg Reg.sp = s.reg Reg.sp - 4 := by
    rw [u_def, State.reg, State.withMem_cpu]
    exact s.reg_setReg_same _ _
  have below : u.reg Reg.sp - 4 = s.reg Reg.sp - 8 := by
    rw [sp]
    bv_omega
  have moved : u.setReg Reg.sp (s.reg Reg.sp - 8) =
      { s.setReg Reg.sp (s.reg Reg.sp - 8) with mem := s.mem.write32 p1 upper } :=
    congrArg (fun t : State => { t with mem := s.mem.write32 p1 upper }) (s.setReg_setReg_same Reg.sp _ _)
  rw [pushFrameWord_storage (p1 := p0) lower (by bv_omega) (below ▸ place0), below, moved]
  rfl

theorem State.mapCpu_id (s : State) : s.mapCpu id = s := (s.mapCpu_eq_const id).trans s.mapCpu_const_cpu

/-- After the pushes and the CPU's own update, the pc is the vector's longword. -/
theorem takeException_storage {vector : Byte} {returnPc target : Word} {update : Cpu → Cpu} {cost : Nat} {u : State}
    (pushed : u = (s.withFrame p1 p0 s.cpu.sr.toWord returnPc).mapCpu update)
    (aligned : (s.reg Reg.sp).toNat % 4 = 0) (place1 : s.place (s.reg Reg.sp - 4) = .storage p1 true)
    (place0 : s.place (s.reg Reg.sp - 8) = .storage p0 true)
    (vectorRead : plainLong u (u.cpu.vbr + (zext vector <<< 2)) = some target) :
    takeException vector returnPc update cost s = .next ((u.setPc target).setCycles cost) := by
  subst pushed
  rw [← mul_four_eq_shiftLeft] at vectorRead
  rw [takeException, pushFrameWord_storage _ aligned place1, andThen_next, pushFrameWord_pushed _ _ aligned place0,
    andThen_next]
  simp only [memRead32_plain vectorRead, andThen_next]

end

end Sys2Proof.Machine

namespace Sys2Proof.Proofs

open Sys2Proof.Machine

/-- Settles O23: each changes at most flags, the accumulator or the sleep of its own CPU. -/
theorem flagsAndIdle : Obligations.flags_and_idle := fun s =>
  ⟨runsTo_of_testT rfl rfl, runsTo_of_testT rfl rfl, runsTo_clrmac s, runsTo_after rfl, runsTo_of_mapCpu rfl rfl⟩

/-- Settles O24: each is one update of its own CPU; SR goes through its word in both directions. -/
theorem controlRegisterMoves : Obligations.control_register_moves := by
  rintro s m n v w rfl rfl
  refine ⟨⟨_, SR.toWord_ofWord _, runsTo_of_setSr rfl⟩, runsTo_of_mapCpu rfl rfl, runsTo_of_mapCpu rfl rfl,
    runsTo_of_mapCpu rfl rfl, runsTo_of_setMacl rfl rfl, runsTo_of_mapCpu rfl rfl,
    runsTo_of_setReg_eq rfl (SR.toWord_eq_or _), ?_, ?_, ?_, ?_, ?_⟩
  all_goals exact runsTo_of_setReg rfl

/-- Settles O25: each is `loadPop` with the update that writes its register. -/
theorem controlRegisterPops : Obligations.control_register_pops := by
  intro s m v plain
  refine ⟨⟨SR.ofWord v, SR.toWord_ofWord v, ?_⟩, ?_, ?_, ?_, ?_, ?_⟩
  · have runs : exec (.ldclSr m) s = loadPop m (fun u w => u.setSr (SR.ofWord w)) .loadControl s := rfl
    exact runsTo_of_loadPop runs plain (fun _ => rfl) rfl rfl
  all_goals exact runsTo_of_loadPop rfl plain (fun _ => rfl) rfl rfl

/-- Settles O26: each is `storePush` of its register. -/
theorem controlRegisterPushes : Obligations.control_register_pushes := by
  intro s n a address aligned plain
  refine ⟨?_, ?_, ?_, ?_, ?_, ?_⟩
  all_goals exact runsStoring_of_storePush rfl address aligned plain

/-- Settles O27: the exception of vector `imm` without an update of the CPU's own; the vector is read after the pushes,
which may have written it. -/
theorem trapaBuildsTheFrame : Obligations.trapa_builds_the_frame := by
  rintro s imm p1 p0 pv w content vbrAligned spAligned place1 place0 placeVector rfl
  set u := s.withFrame p1 p0 s.cpu.sr.toWord (s.cpu.pc + 2) with u_def
  have vbr : u.cpu.vbr = s.cpu.vbr := by rw [u_def, State.withFrame_cpu]
  have vectorRead : plainLong u (u.cpu.vbr + (zext imm <<< 2)) = some (u.mem.read32 pv) := by
    rw [vbr]
    exact plainLong_storage (add_shift_two_aligned _ vbrAligned) placeVector
  refine ⟨(u.setPc (u.mem.read32 pv)).setCycles (s.cost .trap),
    takeException_storage u.mapCpu_id.symm spAligned place1 place0 vectorRead, ?_, ?_, ?_⟩
  · rw [State.setCycles_cpu, State.setPc_cpu, u_def, State.withFrame_cpu, ← State.withFrame_read]
    rfl
  · refine ⟨rfl, ?_, rfl, rfl, rfl, rfl, rfl, rfl, rfl⟩
    rw [State.setCycles_other, State.setPc_other, u_def, State.withFrame_other]
  · rw [← State.withFrame_read]
    exact fun _ => rfl

/-- Settles O31: `RTE` is a taken delayed branch, whose capture has popped the frame. -/
theorem rteOverNop : Obligations.rte_over_nop := fun _ target w _ plain top above =>
  ⟨SR.ofWord w, SR.toWord_ofWord w,
    (TakesSlot.rte target w (SR.ofWord w) top above (SR.toWord_ofWord w)).runsTo_over_nop plain⟩

end Sys2Proof.Proofs
end

section
/-!
SUPPORT. The DMA: that a transfer changes storage and the address registers of its channel alone, how it ends, what the
queue does with its head, a start event and an enable write, and the run along a chain of descriptors (R401 to R431).
-/

namespace Sys2Proof.Machine

/-! ### A transfer does not read the status of its configuration (R409, R410) -/

theorem moveBytes_withStatus (r w : Word) (cfg : DmaConfig) (status : DmaStatus) (bus : DmaBus) (left k : Nat)
    (s : State) : moveBytes r w { cfg with status := status } bus left k s = moveBytes r w cfg bus left k s := by
  induction left generalizing k s with
  | zero => rfl
  | succ left ih =>
    simp only [moveBytes, ih]
    rfl

theorem directTransfer_withStatus (cfg : DmaConfig) (status : DmaStatus) (s : State) :
    directTransfer { cfg with status := status } s = directTransfer cfg s := by
  simp only [directTransfer, moveBytes_withStatus]
  rfl

theorem runChain_withStatus (cfg : DmaConfig) (status : DmaStatus) (fuel : Nat) (p : Word) (s : State) :
    runChain { cfg with status := status } fuel p s = runChain cfg fuel p s := by
  induction fuel generalizing p s with
  | zero => rfl
  | succ fuel ih => simp only [runChain, moveDescriptor, moveBytes_withStatus, ih]

theorem indirectTransfer_withStatus (cfg : DmaConfig) (status : DmaStatus) (s : State) :
    indirectTransfer { cfg with status := status } s = indirectTransfer cfg s := by
  simp only [indirectTransfer, runChain_withStatus]

/-- The end of a transfer (R410, R428, R430): the interrupt, and for the DMA-start factor the enable bit. -/
def State.endDma (s : State) (cfg : DmaConfig) : State :=
  if cfg.startingFactorSelect = dmaStartFactor then (s.scuRaise (dmaEndSource cfg.level)).clearEnable cfg.level
  else s.scuRaise (dmaEndSource cfg.level)

section
variable {cfg : DmaConfig} {s u : State}

theorem executeDma_direct (mode : cfg.dmaMode = .direct) :
    executeDma cfg s = andThen (directTransfer cfg s) fun u => .next (u.endDma cfg) := by
  rw [← directTransfer_withStatus cfg .active]
  simp only [executeDma, mode]
  rfl

theorem executeDma_indirect (mode : cfg.dmaMode = .indirect) :
    executeDma cfg s = andThen (indirectTransfer cfg s) fun u => .next (u.endDma cfg) := by
  rw [← indirectTransfer_withStatus cfg .active]
  simp only [executeDma, mode]
  rfl

/-! ### How a transfer ends (R428, R430) -/

/-- The interrupt of a level has the same bit in IMS and in IST (R524). -/
theorem dmaEndSource_bits (level : Fin 3) :
    (dmaEndSource level).maskBit = 11 - level.val ∧ (dmaEndSource level).statusBit = 11 - level.val := by
  revert level
  decide

/-- The table of the statements, and the model's choice of the source. -/
theorem dmaEndSource_of_mem {src : ScuSource} {level : Fin 3}
    (mem : (src, level) ∈ [(ScuSource.level0DmaEnd, 0), (.level1DmaEnd, 1), (.level2DmaEnd, 2)]) :
    dmaEndSource level = src := by
  simp only [List.mem_cons, Prod.mk.injEq, List.not_mem_nil, or_false] at mem
  rcases mem with ⟨rfl, rfl⟩ | ⟨rfl, rfl⟩ | ⟨rfl, rfl⟩ <;> rfl

/-- The enable register keeps bit 0 alone when its bit 8 is cleared. -/
theorem State.clearEnable_channel (s : State) (level k : Fin 3) : (s.clearEnable level).scu.channel k =
    if k = level then { s.scu.channel level with enable := (s.scu.channel level).enable &&& 1 }
    else s.scu.channel k := by
  have bitZero : (0xFFFFFEFF : Word) &&& 0x00000101 = 1 := rfl
  refine (Scu.channel_putChannel _ _ _ _ _ _).trans ?_
  rw [ChannelReg.mask, BitVec.and_assoc, bitZero]
  rfl

/-- The end of a transfer changes IST, the enable registers and, if the interrupt is sent, the master. -/
theorem State.endDma_effect (s : State) (cfg : DmaConfig) : s.endDma cfg = { s with
    scu := { s.scu with
      ist := s.scu.ist ||| (1#32 <<< (11 - cfg.level.val))
      channels := (s.endDma cfg).scu.channels }
    master := if s.scu.ims.getLsbD (11 - cfg.level.val) then s.master
      else s.master.sendInterrupt (.scu (dmaEndSource cfg.level)) } := by
  obtain ⟨maskBit, statusBit⟩ := dmaEndSource_bits cfg.level
  unfold State.endDma
  rw [State.scuRaise_effect, maskBit, statusBit]
  split <;> rfl

/-- The channels after the end of a transfer: for the DMA-start factor the enable bit is cleared (R430). -/
theorem State.endDma_channel (s : State) (cfg : DmaConfig) (k : Fin 3) : (s.endDma cfg).scu.channel k =
    if k = cfg.level ∧ cfg.startingFactorSelect = dmaStartFactor then
      { s.scu.channel k with enable := (s.scu.channel k).enable &&& 1 }
    else s.scu.channel k := by
  have raised (l : Fin 3) : (s.scuRaise (dmaEndSource cfg.level)).scu.channel l = s.scu.channel l := by
    rw [State.scuRaise_effect]
    rfl
  unfold State.endDma
  by_cases start : cfg.startingFactorSelect = dmaStartFactor
  · simp only [start, if_true, and_true, State.clearEnable_channel, raised]
    split
    next same => rw [same]
    next => rfl
  · simp only [start, if_false, and_false, raised]

@[simp] theorem State.endDma_mem (s : State) (cfg : DmaConfig) : (s.endDma cfg).mem = s.mem := by
  rw [State.endDma_effect]

@[simp] theorem State.endDma_queue (s : State) (cfg : DmaConfig) : (s.endDma cfg).scu.queue = s.scu.queue := by
  rw [State.endDma_effect]

/-- What the byte moves and the address update of a transfer leave: storage and the two address registers of its channel
alone are changed. -/
structure Transferred (cfg : DmaConfig) (readAddr writeAddr : Word) (s t : State) : Prop where
  frame : t = { s with mem := t.mem, scu := { s.scu with channels := t.scu.channels } }
  otherChannels : ∀ l, l ≠ cfg.level → t.scu.channel l = s.scu.channel l
  channel : t.scu.channel cfg.level = { s.scu.channel cfg.level with readAddr := readAddr, writeAddr := writeAddr }

/-- A transfer that leaves the address registers as they are. -/
theorem Transferred.withMem (cfg : DmaConfig) (s : State) (m : Memory) :
    Transferred cfg (s.scu.channel cfg.level).readAddr (s.scu.channel cfg.level).writeAddr s { s with mem := m } :=
  ⟨rfl, fun _ _ => rfl, rfl⟩

variable {read write : Word}

/-- An update of a register of the transfer's channel leaves the other channels, and all but storage and channels. -/
theorem Transferred.putChannel {read' write' : Word} (h : Transferred cfg read write s u) (reg : ChannelReg) (v : Word)
    (put : ({ s.scu.channel cfg.level with readAddr := read, writeAddr := write } : DmaChannel).put reg
        (v &&& reg.mask u.config cfg.level) =
      { s.scu.channel cfg.level with readAddr := read', writeAddr := write' }) :
    Transferred cfg read' write' s (u.putChannel cfg.level reg v) where
  frame := by
    rw [h.frame]
    rfl
  otherChannels l other := by
    refine (Scu.channel_putChannel _ _ _ _ _ _).trans ?_
    rw [if_neg other, h.otherChannels l other]
  channel := by
    refine (Scu.channel_putChannel _ _ _ _ _ _).trans ?_
    rw [if_pos rfl, h.channel, put]

theorem Transferred.putRead (h : Transferred cfg read write s u) (v : Word) :
    Transferred cfg (v &&& 0x07FFFFFF) write s (u.putChannel cfg.level .readAddr v) :=
  h.putChannel .readAddr v rfl

theorem Transferred.putWrite (h : Transferred cfg read write s u) (v : Word) :
    Transferred cfg read (v &&& 0x07FFFFFF) s (u.putChannel cfg.level .writeAddr v) :=
  h.putChannel .writeAddr v rfl

/-- After a transfer, the end of R410 is all that is left of its execution. -/
theorem Transferred.ended (h : Transferred cfg read write s u) : DmaEnded cfg read write s (u.endDma cfg) := by
  obtain ⟨frame, others, channel⟩ := h
  have scu : u.scu = { s.scu with channels := u.scu.channels } := by rw [frame]
  have master : u.master = s.master := by rw [frame]
  have ims : u.scu.ims = s.scu.ims := by rw [scu]
  have ist : u.scu.ist = s.scu.ist := by rw [scu]
  have ended : (u.endDma cfg).scu.channel cfg.level =
      if cfg.startingFactorSelect = dmaStartFactor then
        { s.scu.channel cfg.level with
          readAddr := read, writeAddr := write, enable := (s.scu.channel cfg.level).enable &&& 1 }
      else { s.scu.channel cfg.level with readAddr := read, writeAddr := write } := by
    simp only [State.endDma_channel, channel, true_and]
  have masterEnded : (u.endDma cfg).master = if s.scu.ims.getLsbD (11 - cfg.level.val) then s.master
      else s.master.sendInterrupt (.scu (dmaEndSource cfg.level)) := by
    rw [State.endDma_effect, ims, master]
  exact
    { frame := by rw [State.endDma_effect, frame]
      scu := by rw [State.endDma_effect, ← ist, scu]
      otherChannels := fun l other => by
        rw [State.endDma_channel, if_neg fun same => other same.1, others l other]
      channel := by
        rw [ended]
        split <;> rfl
      cleared := fun start k _ => by
        rw [ended, if_pos (show _ = dmaStartFactor from start), BitVec.getLsbD_and]
        cases k <;> simp
      kept := fun start => by rw [ended, if_neg (show _ ≠ dmaStartFactor from start)]
      masked := fun masked => by rw [masterEnded, if_pos masked]
      sent := fun src mem sent => by
        rw [masterEnded, if_neg (by simp [sent]), dmaEndSource_of_mem mem] }

/-! ### A transfer leaves the SCU's queue (R407) -/

theorem busWrite8_scu_keeps {a : Word} {v : Byte} (h : busWrite8 .scu a v s = .next u) : u.scu = s.scu := by
  rcases busWrite8_effect h with rfl | ⟨p, rfl⟩ | ⟨c, off, scuIsCpu, rfl⟩
  · rfl
  · rfl
  · cases scuIsCpu

theorem moveBytes_keeps_scu {r w : Word} {bus : DmaBus} {left k : Nat}
    (h : moveBytes r w cfg bus left k s = .next u) : u.scu = s.scu := by
  induction left generalizing k s with
  | zero => cases h; rfl
  | succ left ih =>
    obtain ⟨⟨b, s₁⟩, read, h⟩ := andThen_eq_next.mp h
    obtain ⟨s₂, written, rest⟩ := andThen_eq_next.mp h
    cases busRead8_effect read
    exact (ih rest).trans (busWrite8_scu_keeps written)

theorem moveDescriptor_keeps_scu {r w : Word} {count : Nat} (h : moveDescriptor r w count cfg s = .next u) :
    u.scu = s.scu := by
  unfold moveDescriptor at h
  split at h
  · cases h; rfl
  · exact moveBytes_keeps_scu h

theorem runChain_keeps_scu {fuel : Nat} {p q : Word} (h : runChain cfg fuel p s = .next (q, u)) : u.scu = s.scu := by
  induction fuel generalizing p s with
  | zero => cases h
  | succ fuel ih =>
    obtain ⟨⟨src, s₁⟩, readSrc, fromDst⟩ := andThen_eq_next.mp h
    obtain ⟨⟨dst, s₂⟩, readDst, fromLen⟩ := andThen_eq_next.mp fromDst
    obtain ⟨⟨len, s₃⟩, readLen, fromMove⟩ := andThen_eq_next.mp fromLen
    obtain ⟨s₄, moved, goesOn⟩ := andThen_eq_next.mp fromMove
    cases busRead32_effect readSrc
    cases busRead32_effect readDst
    cases busRead32_effect readLen
    rw [← moveDescriptor_keeps_scu moved]
    split at goesOn
    · cases goesOn; rfl
    · exact ih goesOn

theorem updateAddresses_queue (cfg : DmaConfig) (count : Nat) (bus : DmaBus) (s : State) :
    (updateAddresses cfg count bus s).scu.queue = s.scu.queue := by
  unfold updateAddresses
  cases cfg.readAddressUpdate <;> cases cfg.writeAddressUpdate <;> rfl

theorem directTransfer_keeps_queue (h : directTransfer cfg s = .next u) : u.scu.queue = s.scu.queue := by
  unfold directTransfer at h
  dsimp only at h
  split at h
  · cases h; rfl
  · obtain ⟨t, moved, h⟩ := andThen_eq_next.mp h
    cases h
    rw [updateAddresses_queue, moveBytes_keeps_scu moved]

theorem indirectTransfer_keeps_queue (h : indirectTransfer cfg s = .next u) : u.scu.queue = s.scu.queue := by
  obtain ⟨⟨p, t⟩, ran, h⟩ := andThen_eq_next.mp h
  rw [← runChain_keeps_scu ran]
  dsimp only at h
  split at h <;> cases h <;> rfl

theorem executeDma_keeps_queue (h : executeDma cfg s = .next u) : u.scu.queue = s.scu.queue := by
  cases mode : cfg.dmaMode with
  | direct =>
    rw [executeDma_direct mode] at h
    obtain ⟨t, transferred, h⟩ := andThen_eq_next.mp h
    cases h
    rw [State.endDma_queue, directTransfer_keeps_queue transferred]
  | indirect =>
    rw [executeDma_indirect mode] at h
    obtain ⟨t, transferred, h⟩ := andThen_eq_next.mp h
    cases h
    rw [State.endDma_queue, indirectTransfer_keeps_queue transferred]

/-! ### The queue and its head (R407, R408) -/

theorem activateDma_idle (idle : ∀ e ∈ s.scu.queue.head?, e.status ≠ .queued) : activateDma s = .next s := by
  unfold activateDma
  cases queue : s.scu.queue with
  | nil => rfl
  | cons cfg rest =>
    rw [queue] at idle
    simp only [List.length_cons, activateLoop, queue, if_neg (idle cfg rfl)]

/-- The fuel of `activateDma` is the length of the queue, which the execution of the head leaves at one less. -/
theorem activateDma_queued {rest : List DmaConfig} (queue : s.scu.queue = cfg :: rest) (queued : cfg.status = .queued)
    (executed : executeDma cfg { s with scu := { s.scu with queue := rest } } = .next u) :
    activateDma s = activateDma u := by
  have left : u.scu.queue = rest := executeDma_keeps_queue executed
  simp only [activateDma, queue, left, List.length_cons, activateLoop, if_pos queued, executed, andThen_next]

end

/-! ### Direct transfers (R411 to R420) -/

section
variable {cfg : DmaConfig} {s : State} {r w : Word} {count : Nat}

/-- Whether the bus answers the SCU is decided by where an address leads, not by the SCU's registers or its queue. -/
theorem DmaAnswers.withScu (h : DmaAnswers s cfg r w count) (v : Scu) :
    DmaAnswers { s with scu := v } cfg r w count where
  reads k hk := by
    obtain ⟨b, read⟩ := h.reads k hk
    have place : State.place { s with scu := v } (dmaReadAt cfg r k) = s.place (dmaReadAt cfg r k) := rfl
    unfold busRead8 at read ⊢
    rw [place]
    split at read
    · exact ⟨_, rfl⟩
    · cases read
    · split at read
      next touched => cases read
      next untouched => exact ⟨_, if_neg untouched⟩
    · cases read
    · exact ⟨_, rfl⟩
    · exact ⟨_, rfl⟩
  writes k hk := by
    obtain ⟨t, written⟩ := h.writes k hk
    have same : dmaWriteAt { s with scu := v } cfg w k = dmaWriteAt s cfg w k := rfl
    have place : State.place { s with scu := v } (dmaWriteAt s cfg w k) = s.place (dmaWriteAt s cfg w k) := rfl
    unfold busWrite8 at written ⊢
    rw [same, place]
    split at written
    · exact ⟨_, rfl⟩
    · cases written
    · split at written
      next touched => cases written
      next untouched => exact ⟨_, if_neg untouched⟩
    · cases written
    · exact ⟨_, rfl⟩
    · exact ⟨_, rfl⟩

theorem dmaContent_withScu (s : State) (v : Scu) (cfg : DmaConfig) (r w : Word) (count : Nat) :
    dmaContent { s with scu := v } cfg r w count = dmaContent s cfg r w count := by
  induction count with
  | zero => rfl
  | succ count ih =>
    simp only [dmaContent, ih]
    rfl

/-- `UpdateAddresses` (R420), with the addresses as the statements write them. -/
theorem updateAddresses_eq (cfg : DmaConfig) (count : Nat) (s : State) :
    updateAddresses cfg count (getDmaBus s.config.rangeMode cfg.writeAddress) s =
      let t := if cfg.readAddressUpdate = .hold then s
        else s.putChannel cfg.level .readAddr (dmaReadAt cfg cfg.readAddress ((count + 3) / 4 * 4))
      if cfg.writeAddressUpdate = .hold then t
      else t.putChannel cfg.level .writeAddr (dmaWriteAt s cfg cfg.writeAddress count) := by
  have groups : dmaReadAt cfg cfg.readAddress ((count + 3) / 4 * 4) =
      cfg.readAddress + BitVec.ofNat 32 ((count + 3) / 4 * readStride cfg.readAddress cfg) := by
    rw [← readPlace_eq, readPlace, Nat.mul_mod_left, Nat.mul_div_cancel _ (by decide), Nat.add_zero]
  rw [groups, ← writePlace_eq]
  unfold updateAddresses
  cases cfg.readAddressUpdate <;> cases cfg.writeAddressUpdate <;> rfl

/-- A direct transfer to a known bus moves its bytes, and then the address registers if asked to. -/
theorem directTransfer_known (bus : getDmaBus s.config.rangeMode cfg.writeAddress ≠ .unknownBus)
    (countEq : count = dmaCount s.config cfg.transferByteNumber)
    (answers : DmaAnswers s cfg cfg.readAddress cfg.writeAddress count) :
    ∃ m, directTransfer cfg s = .next (updateAddresses cfg count (getDmaBus s.config.rangeMode cfg.writeAddress)
        { s with mem := m }) ∧ m.read = dmaContent s cfg cfg.readAddress cfg.writeAddress count := by
  subst countEq
  obtain ⟨m, moved, content⟩ := moveBytes_content answers _ 0 s.mem (Nat.zero_add _) rfl
  refine ⟨m, ?_, content⟩
  unfold directTransfer
  dsimp only
  split
  next unknown => exact absurd unknown bus
  next => rw [moved, andThen_next]

theorem directTransfer_unknown (bus : getDmaBus s.config.rangeMode cfg.writeAddress = .unknownBus) :
    directTransfer cfg s = .next s := by
  unfold directTransfer
  simp only [bus]

/-- A direct transfer to a known bus, as far as its end. -/
theorem directTransfer_transfers {read write : Word}
    (bus : getDmaBus s.config.rangeMode cfg.writeAddress ≠ .unknownBus)
    (countEq : count = dmaCount s.config cfg.transferByteNumber)
    (answers : DmaAnswers s cfg cfg.readAddress cfg.writeAddress count)
    (readEq : read = if cfg.readAddressUpdate = .hold then (s.scu.channel cfg.level).readAddr
      else dmaReadAt cfg cfg.readAddress ((count + 3) / 4 * 4) &&& 0x07FFFFFF)
    (writeEq : write = if cfg.writeAddressUpdate = .hold then (s.scu.channel cfg.level).writeAddr
      else dmaWriteAt s cfg cfg.writeAddress count &&& 0x07FFFFFF) :
    ∃ u, directTransfer cfg s = .next u ∧ Transferred cfg read write s u ∧
      u.mem.read = dmaContent s cfg cfg.readAddress cfg.writeAddress count := by
  obtain ⟨m, transferred, content⟩ := directTransfer_known bus countEq answers
  refine ⟨_, transferred, ?_, ?_⟩
  all_goals rw [updateAddresses_eq cfg _ { s with mem := m }]
  · subst readEq writeEq
    have moved := Transferred.withMem cfg s m
    cases cfg.readAddressUpdate <;> cases cfg.writeAddressUpdate
    · exact moved
    · exact moved.putWrite _
    · exact moved.putRead _
    · exact (moved.putRead _).putWrite _
  · rw [← content]
    cases cfg.readAddressUpdate <;> cases cfg.writeAddressUpdate <;> rfl

end

/-! ### Indirect transfers (R421 to R426) -/

section
variable {cfg : DmaConfig} {s : State} {p raw : Word}

/-- A longword at a plain address is the same for every bus master. -/
theorem busRead32_plain {b : BusMaster} {a v : Word} (h : plainLong s a = some v) : busRead32 b a s = .next (v, s) := by
  unfold plainLong at h
  unfold busRead32
  split at h
  · split at h <;> simp_all [Memory.read32]
  · cases h

/-- What an address holds depends on what storage reads as, not on how it is held. -/
theorem plainLong_withMem {m : Memory} (same : m.read = s.mem.read) (a : Word) :
    plainLong { s with mem := m } a = plainLong s a := by
  have place : State.place { s with mem := m } a = s.place a := rfl
  unfold plainLong
  rw [place, same]

/-- One descriptor at plain addresses (R421): its words, its move, and the end of the chain or the next descriptor. -/
theorem runChain_descriptor {len dst : Word} (fuel : Nat) (lenAt : plainLong s p = some len)
    (dstAt : plainLong s (p + 4) = some dst) (rawAt : plainLong s (p + 8) = some raw) :
    runChain cfg (fuel + 1) p s =
      andThen (moveDescriptor (raw &&& 0x07FFFFFF) (dst &&& 0x07FFFFFF) (dmaCount s.config (len.setWidth 20)) cfg s)
        fun u => if raw &&& u.config.dmaEndCode ≠ 0 then .next (p, u) else runChain cfg fuel (p + 12) u := by
  simp only [runChain, busRead32_plain rawAt, busRead32_plain dstAt, busRead32_plain lenAt, andThen_next]
  rfl

theorem moveDescriptor_unknown {r w : Word} {count : Nat} (bus : getDmaBus s.config.rangeMode w = .unknownBus) :
    moveDescriptor r w count cfg s = .next s := by
  simp only [moveDescriptor, bus]

/-- One descriptor moves its bytes, whatever form storage is held in; none to an unknown bus, for which the statements
count none. -/
theorem moveDescriptor_content {r w : Word} {n count : Nat} {m : Memory} (same : m.read = s.mem.read)
    (countEq : count = if getDmaBus s.config.rangeMode w = .unknownBus then 0 else n)
    (answers : DmaAnswers s cfg r w count) :
    ∃ m', moveDescriptor r w n cfg { s with mem := m } = .next { s with mem := m' } ∧
      m'.read = dmaContent s cfg r w count := by
  by_cases bus : getDmaBus s.config.rangeMode w = .unknownBus
  · rw [if_pos bus] at countEq
    subst countEq
    exact ⟨m, moveDescriptor_unknown bus, same⟩
  · rw [if_neg bus] at countEq
    subst countEq
    obtain ⟨m', moved, content⟩ := moveBytes_content answers count 0 m (Nat.zero_add _) same
    refine ⟨m', ?_, content⟩
    unfold moveDescriptor
    split
    next unknown => exact absurd unknown bus
    next => exact moved

/-- The run along a descriptor that moves: to its storage, and on from there. -/
theorem DescriptorMoved.runChain_eq {u : State} (h : DescriptorMoved cfg p raw s u) {m : Memory}
    (same : m.read = s.mem.read) (fuel : Nat) :
    ∃ m', m'.read = u.mem.read ∧ runChain cfg (fuel + 1) p { s with mem := m } =
      if raw &&& s.config.dmaEndCode ≠ 0 then .next (p, { u with mem := m' })
      else runChain cfg fuel (p + 12) { u with mem := m' } := by
  obtain ⟨len, dst, _, count, lenAt, dstAt, rawAt, rfl, countEq, answers, content, frame⟩ := h
  obtain ⟨m', moved, read⟩ := moveDescriptor_content same countEq answers
  have others : ({ u with mem := m' } : State) = { s with mem := m' } := by rw [frame]
  refine ⟨m', read.trans (funext content).symm, ?_⟩
  rw [others, runChain_descriptor fuel ((plainLong_withMem same _).trans lenAt) ((plainLong_withMem same _).trans dstAt)
    ((plainLong_withMem same _).trans rawAt)]
  exact congrArg (andThen · _) moved

theorem DescriptorMoved.frame {u : State} (h : DescriptorMoved cfg p raw s u) : u = { s with mem := u.mem } := by
  obtain ⟨-, -, -, -, -, -, -, -, -, -, -, frame⟩ := h
  exact frame

/-- A chain changes nothing but storage. -/
theorem DmaChain.frame {n : Nat} {t : State} {q : Word} (h : DmaChain cfg n s p t q) : t = { s with mem := t.mem } := by
  induction h with
  | last moved _ => exact moved.frame
  | more moved _ _ ih => rw [ih, moved.frame]

/-- The run along a chain, given fuel for its descriptors, ends at the last one with the chain's storage. -/
theorem DmaChain.runChain_eq {n : Nat} {t : State} {q : Word} (h : DmaChain cfg n s p t q) {fuel : Nat} {m : Memory}
    (enough : n ≤ fuel) (same : m.read = s.mem.read) :
    ∃ m', m'.read = t.mem.read ∧ runChain cfg fuel p { s with mem := m } = .next (q, { t with mem := m' }) := by
  induction h generalizing fuel m with
  | last moved ends =>
    obtain ⟨fuel, rfl⟩ := Nat.exists_eq_add_of_le' enough
    obtain ⟨m', read, ran⟩ := moved.runChain_eq same fuel
    exact ⟨m', read, ran.trans (if_pos ends)⟩
  | more moved goesOn _ ih =>
    obtain ⟨fuel, rfl⟩ := Nat.exists_eq_add_of_le' (Nat.le_trans (Nat.le_add_left 1 _) enough)
    obtain ⟨m', read, ran⟩ := moved.runChain_eq same fuel
    obtain ⟨m'', read', rest⟩ := ih (Nat.le_of_succ_le_succ enough) read
    exact ⟨m'', read', (ran.trans (if_neg (not_not.mpr goesOn))).trans rest⟩

/-- An indirect transfer whose run along the chain changes storage alone: it keeps the pointer if asked to (R426), and
then ends. -/
theorem executeDma_of_runChain {m : Memory} {last write : Word} (mode : cfg.dmaMode = .indirect)
    (ran : runChain cfg chainFuel cfg.writeAddress s = .next (last, { s with mem := m }))
    (writeEq : write = if cfg.writeAddressUpdate = .hold then (s.scu.channel cfg.level).writeAddr
      else last &&& 0x07FFFFFF) :
    ∃ t, executeDma cfg s = .next t ∧ t.mem = m ∧ DmaEnded cfg (s.scu.channel cfg.level).readAddr write s t := by
  have moved := Transferred.withMem cfg s m
  rw [executeDma_indirect mode, indirectTransfer, ran, andThen_next]
  cases update : cfg.writeAddressUpdate with
  | hold =>
    rw [update, if_pos rfl] at writeEq
    exact ⟨_, rfl, State.endDma_mem _ _, writeEq ▸ moved.ended⟩
  | update =>
    rw [update, if_neg nofun] at writeEq
    exact ⟨_, rfl, State.endDma_mem _ _, writeEq ▸ (moved.putWrite last).ended⟩

end

/-! ### The buses (R413) -/

/-- `getDmaBus` with the range parameter in the end of the B-bus alone. -/
theorem getDmaBus_eq (mode : RangeMode) (a : Word) : getDmaBus mode a =
    if 0x05A00000 ≤ (a &&& 0x0FFFFFFF).toNat ∧
        (a &&& 0x0FFFFFFF).toNat ≤ (if mode = .sourceRanges then 0x05FFFFFF else 0x05FDFFFF) then .bBus
    else if 0x02000000 ≤ (a &&& 0x0FFFFFFF).toNat ∧ (a &&& 0x0FFFFFFF).toNat ≤ 0x058FFFFF then .aBus
    else if 0x06000000 ≤ (a &&& 0x0FFFFFFF).toNat ∧ (a &&& 0x0FFFFFFF).toNat ≤ 0x07FFFFFF then .cpuBus
    else .unknownBus := by
  cases mode <;> rfl

/-- The ranges of the buses are apart, so that the order of their tests does not matter. -/
theorem getDmaBus_iff {mode : RangeMode} {a : Word} {x last : Nat} (address : x = (a &&& 0x0FFFFFFF).toNat)
    (lastEq : last = if mode = .sourceRanges then 0x05FFFFFF else 0x05FDFFFF) :
    (getDmaBus mode a = .bBus ↔ 0x05A00000 ≤ x ∧ x ≤ last) ∧
    (getDmaBus mode a = .aBus ↔ 0x02000000 ≤ x ∧ x ≤ 0x058FFFFF) ∧
    (getDmaBus mode a = .cpuBus ↔ 0x06000000 ≤ x ∧ x ≤ 0x07FFFFFF) := by
  have bBusEnd : last ≤ 0x05FFFFFF := by
    rw [lastEq]
    split <;> decide
  rw [getDmaBus_eq, ← address, ← lastEq]
  split
  next bBus => simp only [true_iff, reduceCtorEq, false_iff]; omega
  split
  next aBus => simp only [true_iff, reduceCtorEq, false_iff]; omega
  split
  next cpuBus => simp only [true_iff, reduceCtorEq, false_iff]; omega
  next => simp only [reduceCtorEq, false_iff]; omega

/-! ### The enable write (R402 to R405) -/

/-- The place of an entry in a queue split by its level. -/
theorem insertByLevel_append {cfg : DmaConfig} {low high : List DmaConfig} (notAbove : ∀ e ∈ low, e.level ≤ cfg.level)
    (above : ∀ e ∈ high, cfg.level < e.level) : insertByLevel cfg (low ++ high) = low ++ cfg :: high := by
  induction low with
  | nil =>
    cases high with
    | nil => rfl
    | cons e high => exact if_pos (above e (.head _))
  | cons e low ih =>
    refine (if_neg (not_lt.mpr (notAbove e (.head _)))).trans ?_
    exact congrArg (e :: ·) (ih fun d mem => notAbove d (.tail _ mem))

/-- The write-add value of R416 and R49, by the low three bits of its register. -/
theorem writeAdd_eq (mode : WriteAddMode) (v : Word) : writeAdd mode (v.extractLsb' 0 3) =
    if mode = .sourceCompatible then 128 else [0, 2, 4, 8, 16, 32, 64, 128].getD (v.toNat % 8) 0 := by
  have code : v.toNat % 8 = (v.extractLsb' 0 3).toNat := by
    rw [BitVec.extractLsb'_toNat, Nat.shiftRight_zero]
  have table : ∀ c : BitVec 3, (if c = 0 then 0 else 2 ^ c.toNat) =
      ([0, 2, 4, 8, 16, 32, 64, 128] : List Nat).getD c.toNat 0 := by
    decide
  rw [code]
  cases mode with
  | sourceCompatible => rfl
  | corrected => exact table _

/-- The factor select of the mode register is the DMA-start factor. -/
theorem startFactor_iff (mode : Word) : mode.extractLsb' 0 3 = dmaStartFactor ↔ mode.toNat % 8 = 7 := by
  rw [← BitVec.toNat_inj, BitVec.extractLsb'_toNat, Nat.shiftRight_zero]
  rfl

/-- The entry that an enable write of `v` makes from the registers of its channel, as the statement writes it. -/
def enabledEntry (p : Params) (level : Fin 3) (c : DmaChannel) (v : Word) : DmaConfig where
  level := level
  status := if c.mode.toNat % 8 = 7 then .queued else .waitingStartFactor
  readAddress := c.readAddr &&& 0x07FFFFFF
  writeAddress := c.writeAddr &&& 0x07FFFFFF
  transferByteNumber := (c.count &&& BitVec.ofNat 32 (2 ^ p.dmaCountBits.at level - 1)).setWidth 20
  readAddValue := if c.addValue.getLsbD 8 = true then 4 else 0
  writeAddValue := if p.writeAddMode = .sourceCompatible then 128
    else [0, 2, 4, 8, 16, 32, 64, 128].getD (c.addValue.toNat % 8) 0
  dmaEnable := true
  dmaStart := v.getLsbD 0
  dmaMode := if c.mode.getLsbD 24 = true then .indirect else .direct
  readAddressUpdate := if c.mode.getLsbD 16 = true then .update else .hold
  writeAddressUpdate := if c.mode.getLsbD 8 = true then .update else .hold
  startingFactorSelect := c.mode.extractLsb' 0 3

/-- The snapshot of R404, taken after the enable register is written, with the status of R405. -/
theorem configureDmaTransfer_enabled (u : Scu) (p : Params) (level : Fin 3) {v : Word} (trigger : v.getLsbD 8 = true) :
    { configureDmaTransfer (u.putChannel p level .enable v) p level with
      status := if (configureDmaTransfer (u.putChannel p level .enable v) p level).startingFactorSelect = dmaStartFactor
        then .queued else .waitingStartFactor } = enabledEntry p level (u.channel level) v := by
  have enabled : (u.putChannel p level .enable v).channel level =
      { u.channel level with enable := v &&& 0x00000101 } := by
    rw [Scu.channel_putChannel, if_pos rfl]
    rfl
  have enable : (v &&& 0x00000101).getLsbD 8 = true := by simp [trigger]
  have start : (v &&& 0x00000101).getLsbD 0 = v.getLsbD 0 := by simp
  simp only [configureDmaTransfer, enabledEntry, enabled, enable, start, startFactor_iff, writeAdd_eq]
  rfl

/-- The enable write (R402): the register, the entry behind those of its level, and what `activateDma` then does. -/
theorem scuWrite32_enable {s : State} {level : Fin 3} {v : Word} {low high : List DmaConfig}
    (trigger : v.getLsbD 8 = true) (queue : s.scu.queue = low ++ high) (notAbove : ∀ e ∈ low, e.level ≤ level)
    (above : ∀ e ∈ high, level < e.level) :
    scuWrite32 (0x20 * level.val + 0x10) v s = activateDma { s with scu :=
      { s.scu.putChannel s.config level .enable v with
        queue := low ++ enabledEntry s.config level (s.scu.channel level) v :: high } } := by
  have register : ScuReg.ofOffset (0x20 * level.val + 0x10) = some (.channel level .enable) :=
    ScuReg.ofOffset_offset (.channel level .enable)
  have inserted : addDmaToQueue (configureDmaTransfer (s.scu.putChannel s.config level .enable v) s.config level)
      (s.scu.putChannel s.config level .enable v).queue =
        low ++ enabledEntry s.config level (s.scu.channel level) v :: high := by
    have same : (s.scu.putChannel s.config level .enable v).queue = low ++ high := queue
    rw [same, addDmaToQueue, configureDmaTransfer_enabled _ _ _ trigger]
    exact insertByLevel_append notAbove above
  simp only [scuWrite32, register, trigger, if_true, enableDma, Scu.write, inserted]

/-! ### Start events (R406) -/

theorem step_startFactor {s : State} {e : StartEvent} {rest : List HostAction}
    (due : s.hostInputs = .startFactor e :: rest) (running : s.emulationStopped = false) :
    step s = sendStartFactor e { s with hostInputs := rest } := by
  simp [step, coreStep, due, running, hostStep]

end Sys2Proof.Machine

namespace Sys2Proof.Proofs

open Sys2Proof.Machine

/-- Settles O47: the snapshot is taken after the register is written, and inserted behind the entries of its level. -/
theorem enableWriteQueues : Obligations.enable_write_queues := by
  rintro s level v low high _ trigger rfl queue notAbove above
  have written (k : Fin 3) : (s.scu.putChannel s.config level .enable v).channel k =
      if k = level then (s.scu.channel level).put .enable (v &&& 0x00000101) else s.scu.channel k :=
    Scu.channel_putChannel _ _ _ _ _ _
  refine ⟨_, enabledEntry s.config level (s.scu.channel level) v, scuWrite32_enable trigger queue notAbove above,
    fun idle => activateDma_idle idle, rfl, fun l other => ?_, ?_, rfl⟩
  · exact (written l).trans (if_neg other)
  · exact (written level).trans (if_pos rfl)

/-- Settles O48: the bytes, then the address registers, then the end of R410; the queue runs on behind its head. -/
theorem directTransferCopies : Obligations.direct_transfer_copies := by
  refine ⟨fun _ => activateDma_idle, ?_⟩
  rintro s _ cfg rest queue queued rfl
  refine ⟨fun u => activateDma_queued queue queued, ?_⟩
  intro count read write mode bus countEq answers readEq writeEq
  obtain ⟨u, transferred, changes, content⟩ :=
    directTransfer_transfers (s := { s with scu := { s.scu with queue := rest } }) bus countEq (answers.withScu _)
      readEq writeEq
  have executed : executeDma cfg { s with scu := { s.scu with queue := rest } } = .next (u.endDma cfg) := by
    rw [executeDma_direct mode, transferred, andThen_next]
  refine ⟨_, executed, fun q => ?_, changes.ended, fun idle => ?_⟩
  · rw [State.endDma_mem, content, dmaContent_withScu]
  · rw [activateDma_queued queue queued executed]
    refine activateDma_idle ?_
    rw [executeDma_keeps_queue executed]
    exact idle

/-- Settles O49: the fuel of the run is the bound on the chain's length. -/
theorem indirectTransferFollowsItsChain : Obligations.indirect_transfer_follows_its_chain := by
  intro s u cfg n last write mode chain bound writeEq
  obtain ⟨m, read, ran⟩ := chain.runChain_eq (fuel := chainFuel) (m := s.mem) bound rfl
  have others : ({ u with mem := m } : State) = { s with mem := m } := by rw [chain.frame]
  rw [others] at ran
  obtain ⟨t, executed, mem, ended⟩ := executeDma_of_runChain mode ran writeEq
  exact ⟨t, executed, fun q => by rw [mem, read], ended⟩

/-- Settles O50: the entries that wait for the factor are the ones that `DmaConfig.release` changes. -/
theorem startEventReleases : Obligations.start_event_releases := by
  rintro s e rest released _ due running length entries rfl
  have queue : released = s.scu.queue.map fun cfg => cfg.release e.code := by
    refine List.ext_getElem (by rw [length, List.length_map]) fun k inReleased inQueue => ?_
    rw [List.length_map] at inQueue
    have entry := entries (s.scu.queue[k], released[k])
      (List.mem_iff_getElem.mpr ⟨k, by simp [length, inQueue], List.getElem_zip⟩)
    rw [List.getElem_map]
    refine entry.trans ?_
    cases e <;> rfl
  have steps : step s = activateDma { s with hostInputs := rest, scu := { s.scu with queue := released } } := by
    rw [step_startFactor due running, queue]
    rfl
  exact ⟨steps, fun idle => steps.trans (activateDma_idle idle)⟩

/-- Settles O51: the ranges of R413, and then the two transfers to no known bus, which move nothing and yet end. -/
theorem dmaBuses : Obligations.dma_buses := by
  refine ⟨fun _ _ _ _ => getDmaBus_iff, fun s cfg mode unknown => ?_, ?_⟩
  · refine ⟨s.endDma cfg, ?_, State.endDma_mem s cfg, (Transferred.withMem cfg s s.mem).ended⟩
    rw [executeDma_direct mode, directTransfer_unknown unknown, andThen_next]
  · intro s cfg src dst len write mode lenAt dstAt srcAt ends unknown writeEq
    refine executeDma_of_runChain (m := s.mem) (last := cfg.writeAddress) mode ?_ writeEq
    have fuel : chainFuel = (2 ^ 30 - 1) + 1 := rfl
    rw [fuel, runChain_descriptor _ lenAt dstAt srcAt, moveDescriptor_unknown unknown, andThen_next, if_pos ends]

end Sys2Proof.Proofs
end

section
/-!
SUPPORT. The interrupt bookkeeping (R520 to R544): what sending, accepting, entering and returning do to the pending list,
the level flags and the interrupt in service; that R544 survives each of them, and with them every step.
-/

namespace Sys2Proof.Machine

/-! ### The pending entry of greatest level (R531) -/

theorem Interrupt.higher_eq (a b : Interrupt) : a.higher b = a ∨ a.higher b = b := by
  unfold Interrupt.higher
  split
  exacts [.inr rfl, .inl rfl]

theorem Interrupt.le_higher (a b : Interrupt) : a.level ≤ (a.higher b).level ∧ b.level ≤ (a.higher b).level := by
  unfold Interrupt.higher
  split
  next lower => exact ⟨le_of_lt lower, le_rfl⟩
  next notLower => exact ⟨le_rfl, not_lt.mp notLower⟩

theorem greatestPending_eq_none {l : List Interrupt} : greatestPending l = none ↔ l = [] := by
  cases l with
  | nil => simp [greatestPending]
  | cons d rest =>
    unfold greatestPending
    split <;> simp

/-- The entry that `greatestPending` finds is one of the list, and no entry has a greater level. -/
theorem greatestPending_spec {l : List Interrupt} {d : Interrupt} (h : greatestPending l = some d) :
    d ∈ l ∧ ∀ e ∈ l, e.level ≤ d.level := by
  induction l generalizing d with
  | nil => cases h
  | cons a rest ih =>
    unfold greatestPending at h
    split at h
    next alone =>
      obtain rfl := greatestPending_eq_none.mp alone
      cases h
      simp
    next b found =>
      obtain ⟨mem, greatest⟩ := ih found
      obtain ⟨first, others⟩ := a.le_higher b
      cases h
      refine ⟨?_, List.forall_mem_cons.mpr ⟨first, fun e he => (greatest e he).trans others⟩⟩
      rcases a.higher_eq b with same | same
      · exact List.mem_cons.mpr (.inl same)
      · exact List.mem_cons.mpr (.inr (same.symm ▸ mem))

/-- Where no two entries share a level, the greatest entry is the one that `greatestPending` finds. -/
theorem greatestPending_eq_some {l : List Interrupt} (distinct : (l.map Interrupt.level).Nodup) {d : Interrupt} :
    greatestPending l = some d ↔ d ∈ l ∧ ∀ e ∈ l, e.level ≤ d.level := by
  refine ⟨greatestPending_spec, fun ⟨mem, greatest⟩ => ?_⟩
  cases found : greatestPending l with
  | none => simp [greatestPending_eq_none.mp found] at mem
  | some e =>
    obtain ⟨eMem, eGreatest⟩ := greatestPending_spec found
    have level : e.level = d.level := le_antisymm (greatest e eMem) (eGreatest d mem)
    rw [List.inj_on_of_nodup_map distinct eMem mem level]

/-- The acceptance test (R531) as one condition. -/
theorem Cpu.acceptable_eq_some {c : Cpu} {d : Interrupt} : c.acceptable = some d ↔
    c.current = none ∧ greatestPending c.pending = some d ∧ c.sr.i.toNat < d.level.val := by
  unfold Cpu.acceptable
  cases c.current with
  | some _ => simp
  | none =>
    cases greatestPending c.pending with
    | none => simp
    | some e =>
      simp only [Option.ite_none_right_eq_some, Option.some.injEq, true_and]
      exact ⟨fun ⟨above, same⟩ => ⟨same, same ▸ above⟩, fun ⟨same, above⟩ => ⟨same.symm ▸ above, same⟩⟩

/-! ### Level flags and `sendInterrupt` (R520) -/

theorem Cpu.levelFlag_setLevelFlag (c : Cpu) (l k : Fin 17) (v : Bool) :
    (c.setLevelFlag l v).levelFlag k = if k = l then v else c.levelFlag k := by
  simp only [Cpu.levelFlag, Cpu.setLevelFlag, Vector.get_eq_getElem, Vector.getElem_set, Fin.val_inj, eq_comm (a := l)]

theorem Cpu.sendInterrupt_dropped {c : Cpu} {d : Interrupt} (h : d.level = 0 ∨ c.levelFlag d.level = true) :
    c.sendInterrupt d = c := by
  unfold Cpu.sendInterrupt
  rcases h with zero | flag
  · rw [if_pos zero]
  · rw [if_pos flag, ite_self]

theorem Cpu.sendInterrupt_appended {c : Cpu} {d : Interrupt} (level : d.level ≠ 0) (flag : c.levelFlag d.level = false) :
    c.sendInterrupt d = { c with
      pending := c.pending ++ [d], levelInterrupted := c.levelInterrupted.set d.level true } := by
  simp [Cpu.sendInterrupt, Cpu.setLevelFlag, level, flag]

/-- Sending does not look at the interrupt in service. -/
theorem Cpu.sendInterrupt_withCurrent (c : Cpu) (d : Interrupt) (x : Option Interrupt) :
    ({ c with current := x } : Cpu).sendInterrupt d = { c.sendInterrupt d with current := x } := by
  by_cases dropped : d.level = 0 ∨ c.levelFlag d.level = true
  · rw [Cpu.sendInterrupt_dropped dropped]
    exact Cpu.sendInterrupt_dropped dropped
  · obtain ⟨level, flag⟩ := not_or.mp dropped
    rw [Bool.not_eq_true] at flag
    rw [Cpu.sendInterrupt_appended level flag]
    exact Cpu.sendInterrupt_appended level flag

@[simp] theorem Cpu.sendInterrupt_current (c : Cpu) (d : Interrupt) : (c.sendInterrupt d).current = c.current := by
  unfold Cpu.sendInterrupt
  split
  · rfl
  · split <;> rfl

/-- Of a CPU, sending changes at most the pending list and the level flags. -/
theorem Cpu.sendInterrupt_frame (c : Cpu) (d : Interrupt) : c.sendInterrupt d = { c with
    pending := (c.sendInterrupt d).pending, levelInterrupted := (c.sendInterrupt d).levelInterrupted } := by
  unfold Cpu.sendInterrupt
  split
  · rfl
  · split <;> rfl

/-! ### R544 on one CPU -/

/-- R544 speaks of three fields of a CPU. -/
theorem Cpu.interruptsConsistent_of_same {c d : Cpu} (pending : d.pending = c.pending)
    (flags : d.levelInterrupted = c.levelInterrupted) (current : d.current = c.current) (h : c.interruptsConsistent) :
    d.interruptsConsistent := by
  unfold Cpu.interruptsConsistent Cpu.levelFlag at h ⊢
  rwa [pending, flags, current]

theorem Cpu.interruptsConsistent_idle {c : Cpu} (pending : c.pending = []) (current : c.current = none)
    (flags : ∀ l, c.levelFlag l = false) : c.interruptsConsistent := by
  simp [Cpu.interruptsConsistent, pending, current, flags]

theorem Cpu.sendInterrupt_consistent {c : Cpu} (d : Interrupt) (h : c.interruptsConsistent) :
    (c.sendInterrupt d).interruptsConsistent := by
  by_cases dropped : d.level = 0 ∨ c.levelFlag d.level = true
  · rwa [Cpu.sendInterrupt_dropped dropped]
  obtain ⟨level, flag⟩ := not_or.mp dropped
  obtain ⟨distinct, positive, flags, apart⟩ := h
  obtain ⟨notPending, notCurrent⟩ := not_or.mp ((flags d.level).not.mp flag)
  rw [Bool.not_eq_true] at flag
  rw [Cpu.sendInterrupt_appended level flag]
  refine ⟨?_, ?_, fun l => ?_, fun x e current mem same => ?_⟩
  · have new : d.level ∉ c.pending.map Interrupt.level := fun mem => notPending (List.mem_map.mp mem)
    rw [List.map_append]
    exact distinct.append (List.nodup_singleton _) (List.disjoint_singleton.mpr new)
  · exact List.forall_mem_append.mpr ⟨positive, List.forall_mem_singleton.mpr level⟩
  · refine (Bool.eq_iff_iff.mp (c.levelFlag_setLevelFlag d.level l true)).trans ?_
    by_cases sent : l = d.level
    · simp [sent]
    · simp [sent, Ne.symm sent, flags l]
  · rcases List.mem_append.mp mem with old | new
    · exact apart x e current old same
    · rw [List.mem_singleton.mp new] at same
      exact notCurrent ⟨x, current, same.symm⟩

theorem Cpu.returnFromInterrupt_consistent {c : Cpu} (h : c.interruptsConsistent) :
    c.returnFromInterrupt.interruptsConsistent := by
  unfold Cpu.returnFromInterrupt
  split
  · exact h
  next d current =>
    obtain ⟨distinct, positive, flags, apart⟩ := h
    refine ⟨distinct, positive, fun l => ?_, by simp⟩
    refine (Bool.eq_iff_iff.mp (c.levelFlag_setLevelFlag d.level l false)).trans ?_
    by_cases left : l = d.level
    · subst left
      have gone : ¬ ∃ e ∈ c.pending, e.level = d.level := fun ⟨e, mem, same⟩ => apart d e current mem same
      simpa [Cpu.setLevelFlag] using gone
    · have others : ¬ d.level = l := Ne.symm left
      simp [left, flags l, current, others, Cpu.setLevelFlag]

/-! ### R544 while an interrupt is being taken (R534) -/

/-- R544 on a CPU from whose pending list the interrupt `d` has been taken that it is about to serve. -/
def Cpu.consistentTaking (d : Interrupt) (c : Cpu) : Prop :=
  c.current = none ∧ ({ c with current := some d } : Cpu).interruptsConsistent

theorem Cpu.consistentTaking_erase {c : Cpu} {d : Interrupt} (accepted : c.acceptable = some d)
    (h : c.interruptsConsistent) : ({ c with pending := c.pending.erase d } : Cpu).consistentTaking d := by
  obtain ⟨idle, found, -⟩ := Cpu.acceptable_eq_some.mp accepted
  obtain ⟨mem, -⟩ := greatestPending_spec found
  obtain ⟨distinct, positive, flags, -⟩ := h
  have split : c.pending.Perm (d :: c.pending.erase d) := List.perm_cons_erase mem
  obtain ⟨notAgain, rest⟩ := List.nodup_cons.mp ((split.map Interrupt.level).nodup_iff.mp distinct)
  refine ⟨idle, rest, fun e he => positive e (List.mem_of_mem_erase he), fun l => (flags l).trans ?_, ?_⟩
  · have either : (∃ e ∈ c.pending, e.level = l) ↔ d.level = l ∨ ∃ e ∈ c.pending.erase d, e.level = l := by
      simp only [split.mem_iff, List.mem_cons, exists_eq_or_imp]
    rw [either, idle]
    simp [or_comm]
  · rintro x e taken he same
    cases taken
    exact notAgain (List.mem_map.mpr ⟨e, he, same⟩)

theorem Cpu.enterInterrupt_consistent {c : Cpu} {d : Interrupt} (h : c.consistentTaking d) :
    (Cpu.enterInterrupt d c).interruptsConsistent :=
  Cpu.interruptsConsistent_of_same rfl rfl rfl h.2

theorem Cpu.consistentTaking_of_same {c e : Cpu} {d : Interrupt} (pending : e.pending = c.pending)
    (flags : e.levelInterrupted = c.levelInterrupted) (current : e.current = c.current) (h : c.consistentTaking d) :
    e.consistentTaking d :=
  ⟨current.trans h.1, Cpu.interruptsConsistent_of_same (c := { c with current := some d }) pending flags rfl h.2⟩

theorem Cpu.sendInterrupt_consistentTaking {c : Cpu} {d : Interrupt} (e : Interrupt) (h : c.consistentTaking d) :
    (c.sendInterrupt e).consistentTaking d := by
  obtain ⟨idle, consistent⟩ := h
  refine ⟨(c.sendInterrupt_current e).trans idle, ?_⟩
  rw [← Cpu.sendInterrupt_withCurrent]
  exact Cpu.sendInterrupt_consistent e consistent

/-- Nothing is in service yet, so that there is nothing to return from. -/
theorem Cpu.returnFromInterrupt_consistentTaking {c : Cpu} {d : Interrupt} (h : c.consistentTaking d) :
    c.returnFromInterrupt.consistentTaking d := by
  unfold Cpu.returnFromInterrupt
  rwa [h.1]

/-! ### R544 on the whole state -/

/-- A property of the active CPU's interrupt state, with R544 on the other CPU. -/
def State.Booked (R : Cpu → Prop) (s : State) : Prop := R s.cpu ∧ s.other.interruptsConsistent

theorem State.interruptsConsistent_iff {s : State} :
    s.interruptsConsistent ↔ s.Booked Cpu.interruptsConsistent := by
  rcases s with ⟨_, _, active, _⟩
  cases active
  exacts [Iff.rfl, and_comm]

theorem State.Booked.mapCpu {R Q : Cpu → Prop} {s : State} {f : Cpu → Cpu} (hf : R s.cpu → Q (f s.cpu))
    (h : s.Booked R) : (s.mapCpu f).Booked Q := by
  unfold State.Booked
  rw [State.mapCpu_cpu, State.mapCpu_other]
  exact h.imp_left hf

theorem Cpu.writeIntc16_interrupts (c : Cpu) (reg : IntcReg) (v : Half) :
    (c.writeIntc16 reg v).pending = c.pending ∧ (c.writeIntc16 reg v).levelInterrupted = c.levelInterrupted ∧
      (c.writeIntc16 reg v).current = c.current := by
  rw [c.writeIntc16_frame reg v]
  exact ⟨rfl, rfl, rfl⟩

theorem Cpu.writeIntc32_interrupts (c : Cpu) (reg : IntcReg) (v : Word) :
    (c.writeIntc32 reg v).pending = c.pending ∧ (c.writeIntc32 reg v).levelInterrupted = c.levelInterrupted ∧
      (c.writeIntc32 reg v).current = c.current := by
  rw [c.writeIntc32_frame reg v]
  exact ⟨rfl, rfl, rfl⟩

/-- What sending and returning keep of one CPU's interrupt state, every change of an instruction step keeps. -/
theorem kept_booked {R : Cpu → Prop}
    (same : ∀ {c d : Cpu}, d.pending = c.pending → d.levelInterrupted = c.levelInterrupted → d.current = c.current →
      R c → R d)
    (send : ∀ {c : Cpu} (d : Interrupt), R c → R (c.sendInterrupt d))
    (leave : ∀ {c : Cpu}, R c → R c.returnFromInterrupt) : Kept (State.Booked R) where
  cpu _ _ e := State.Booked.mapCpu (same e.pending e.levelInterrupted e.current)
  mem _ _ _ h := h
  onChip s off v :=
    State.Booked.mapCpu (s := s) (f := fun c => { c with onChip := c.onChip.write off v }) (same rfl rfl rfl)
  intc16 s reg v :=
    have ⟨pending, flags, current⟩ := s.cpu.writeIntc16_interrupts reg v
    State.Booked.mapCpu (same pending flags current)
  intc32 s reg v :=
    have ⟨pending, flags, current⟩ := s.cpu.writeIntc32_interrupts reg v
    State.Booked.mapCpu (same pending flags current)
  cdRead _ h := h
  cdWrite _ _ _ h := h
  scuWrite _ _ _ h := h
  enqueue _ _ h := h
  dequeue _ _ _ _ h := h
  channel _ _ _ _ h := h
  raise s src h := by
    rw [State.scuRaise_effect]
    rcases s with ⟨_, _, active, _⟩
    obtain ⟨cpu, other⟩ := h
    cases active
    · refine ⟨?_, other⟩
      show R (if _ then _ else _)
      split
      exacts [cpu, send _ cpu]
    · refine ⟨cpu, ?_⟩
      show Cpu.interruptsConsistent (if _ then _ else _)
      split
      exacts [other, Cpu.sendInterrupt_consistent _ other]
  halt _ _ h := h
  leave _ := State.Booked.mapCpu leave

theorem kept_interruptsConsistent : Kept State.interruptsConsistent :=
  (funext fun _ => propext State.interruptsConsistent_iff : State.interruptsConsistent = _) ▸
    kept_booked Cpu.interruptsConsistent_of_same Cpu.sendInterrupt_consistent Cpu.returnFromInterrupt_consistent

theorem kept_consistentTaking (d : Interrupt) : Kept (State.Booked (Cpu.consistentTaking d)) :=
  kept_booked Cpu.consistentTaking_of_same Cpu.sendInterrupt_consistentTaking Cpu.returnFromInterrupt_consistentTaking

/-- Between leaving the pending list and entering service, the interrupt is accounted for by `consistentTaking`. -/
theorem cpuStep_interruptsConsistent {s : State} (h : s.interruptsConsistent) :
    Ends State.interruptsConsistent (cpuStep s) :=
  kept_interruptsConsistent.cpuStep kept_consistentTaking
    (fun _ _ accepted h =>
      State.Booked.mapCpu (Cpu.consistentTaking_erase accepted) (State.interruptsConsistent_iff.mp h))
    (fun _ _ h => State.interruptsConsistent_iff.mpr (State.Booked.mapCpu Cpu.enterInterrupt_consistent h)) h

theorem State.interruptsConsistent_mapCpuOf {s : State} {c : CpuId} {f : Cpu → Cpu}
    (hf : ∀ cpu : Cpu, cpu.interruptsConsistent → (f cpu).interruptsConsistent) (h : s.interruptsConsistent) :
    (s.mapCpuOf c f).interruptsConsistent := by
  obtain ⟨master, slave⟩ := h
  cases c
  exacts [⟨hf _ master, slave⟩, ⟨master, hf _ slave⟩]

theorem Cpu.reset_levelFlag (l : Fin 17) : Cpu.reset.levelFlag l = false := by
  simp [Cpu.levelFlag, Cpu.reset, Vector.get_eq_getElem]

theorem Cpu.reset_consistent : Cpu.reset.interruptsConsistent := Cpu.interruptsConsistent_idle rfl rfl Cpu.reset_levelFlag

theorem keptByHost_interruptsConsistent : KeptByHost State.interruptsConsistent where
  inputs _ _ h := h
  active _ _ h := h
  cdRun _ _ h := h
  release _ _ h := h
  send _ _ d := State.interruptsConsistent_mapCpuOf fun _ => Cpu.sendInterrupt_consistent d
  pin _ _ _ := State.interruptsConsistent_mapCpuOf fun _ hc => hc
  resetScu _ h := h
  resetCd _ h := h
  powerOn _ _ _ _ _ _ :=
    State.interruptsConsistent_mapCpuOf (f := fun cpu => cpu.powerOn _ _ _) fun _ _ =>
      Cpu.interruptsConsistent_of_same (c := Cpu.reset) rfl rfl rfl Cpu.reset_consistent
  resume _ h := h

end Sys2Proof.Machine

namespace Sys2Proof.Proofs

open Sys2Proof.Machine

/-- Settles O38: each change of a pending list, a level flag or the interrupt in service changes all three together. -/
theorem interruptInvariantKept : Obligations.interrupt_invariant_kept := fun _ _ consistent next =>
  (kept_interruptsConsistent.step keptByHost_interruptsConsistent (fun _ => cpuStep_interruptsConsistent)
    consistent).of_next next

/-- Settles O34: where levels differ, the greatest entry of the list is the only one of its level. -/
theorem acceptanceTest : Obligations.acceptance_test := by
  intro c d distinct
  rw [Cpu.acceptable_eq_some, greatestPending_eq_some distinct]
  tauto

end Sys2Proof.Proofs
end

section
/-!
SUPPORT. Interrupts as steps (R520, R522, R534): a call of the host as one step, the status bit that `ScuRaise` sets, the
entry of an interrupt with its stack in writable storage; and what a step of one CPU leaves of the other (R548).
-/

namespace Sys2Proof.Machine

/-! ### Calls of the host -/

/-- A call that is due is the whole step (R8). -/
theorem step_hostCall {s : State} {a : HostAction} {rest : List HostAction} (due : s.hostInputs = a :: rest)
    (running : s.emulationStopped = false) : step s = hostStep a { s with hostInputs := rest } := by
  simp [step, coreStep, due, running]

theorem State.cpuOf_mapCpuOf (s : State) (c o : CpuId) (f : Cpu → Cpu) :
    (s.mapCpuOf c f).cpuOf o = if o = c then f (s.cpuOf o) else s.cpuOf o := by
  cases c <;> cases o <;> rfl

/-! ### The table of R524 and `ScuRaise` -/

/-- Setting one bit of a status word (R522). -/
theorem getLsbD_or_one_shiftLeft (w : Word) {k n : Nat} (hk : k < 32) :
    (w ||| (1#32 <<< n)).getLsbD k = (w.getLsbD k || k == n) := by
  have bit : (1#32 <<< n).getLsbD k = (k == n) := by
    rw [BitVec.getLsbD_shiftLeft, BitVec.getLsbD_one]
    by_cases below : k < n
    · simp [below, below.ne]
    · simp only [hk, below, decide_true, Bool.true_and, decide_false, Bool.not_false, Nat.zero_lt_succ]
      rw [Bool.eq_iff_iff, decide_eq_true_eq, beq_iff_eq]
      omega
  rw [BitVec.getLsbD_or, bit]

theorem ScuSource.level_lt (src : ScuSource) : src.level < 16 := by
  cases src with
  | external n => revert n; decide
  | _ => decide

/-- Level 16 exists for the NMI alone (R524, R527). -/
theorem Interrupt.level_eq_sixteen {d : Interrupt} : d.level = 16 ↔ d = .nmi := by
  cases d with
  | scu src => simpa [Interrupt.level] using src.level_lt.ne
  | nmi => simp [Interrupt.level]
  | host v l => simpa [Interrupt.level] using l.castSucc_lt_last.ne

/-! ### Entry (R534) -/

/-- The mask level after entry: that of the interrupt, and 15 for the NMI's 16. -/
theorem Interrupt.entryMask (d : Interrupt) :
    BitVec.ofNat 4 (min d.level.val 15) = if d.level = 16 then 15 else BitVec.ofNat 4 d.level.val := by
  have table : ∀ l : Fin 17, BitVec.ofNat 4 (min l.val 15) = if l = 16 then 15 else BitVec.ofNat 4 l.val := by decide
  exact table d.level

/-! ### A step of one CPU and the other one (R548, R100) -/

/-- `u` is reached from `s` within a step of the active CPU: the parameters and the choice of the CPU are the same, the
slave is as before if the master steps, and the master, if the slave steps, but for what SCU sources send it. -/
def OtherCpuKept (s u : State) : Prop :=
  u.config = s.config ∧ u.active = s.active ∧ (s.active = .master → u.slave = s.slave) ∧
  (s.active = .slave →
    u.master = { s.master with pending := u.master.pending, levelInterrupted := u.master.levelInterrupted })

theorem OtherCpuKept.refl (s : State) : OtherCpuKept s s := ⟨rfl, rfl, fun _ => rfl, fun _ => rfl⟩

theorem OtherCpuKept.mapCpu {s u : State} (f : Cpu → Cpu) (h : OtherCpuKept s u) : OtherCpuKept s (u.mapCpu f) := by
  obtain ⟨config, active, slave, master⟩ := h
  refine ⟨config, active, fun is => ?_, fun is => ?_⟩
  · have untouched : (u.mapCpu f).slave = u.slave := by simp [State.mapCpu, State.mapCpuOf, active, is]
    exact untouched.trans (slave is)
  · have untouched : (u.mapCpu f).master = u.master := by simp [State.mapCpu, State.mapCpuOf, active, is]
    rw [untouched]
    exact master is

theorem OtherCpuKept.scuRaise {s u : State} (src : ScuSource) (h : OtherCpuKept s u) :
    OtherCpuKept s (u.scuRaise src) := by
  obtain ⟨config, active, slave, master⟩ := h
  rw [State.scuRaise_effect]
  refine ⟨config, active, slave, fun is => ?_⟩
  dsimp only
  split
  · exact master is
  · rw [Cpu.sendInterrupt_frame, master is]

theorem kept_otherCpuKept (s : State) : Kept (OtherCpuKept s) where
  cpu _ f _ := OtherCpuKept.mapCpu f
  mem _ _ _ h := h
  onChip _ _ _ := OtherCpuKept.mapCpu _
  intc16 _ _ _ := OtherCpuKept.mapCpu _
  intc32 _ _ _ := OtherCpuKept.mapCpu _
  cdRead _ h := h
  cdWrite _ _ _ h := h
  scuWrite _ _ _ h := h
  enqueue _ _ h := h
  dequeue _ _ _ _ h := h
  channel _ _ _ _ h := h
  raise _ src := OtherCpuKept.scuRaise src
  halt _ _ h := h
  leave _ := OtherCpuKept.mapCpu _

theorem cpuStep_otherCpuKept (s : State) : Ends (OtherCpuKept s) (cpuStep s) :=
  (kept_otherCpuKept s).cpuStep (Q := fun _ => OtherCpuKept s) (fun _ => kept_otherCpuKept s)
    (fun _ _ _ => OtherCpuKept.mapCpu _) (fun _ _ => OtherCpuKept.mapCpu _) (OtherCpuKept.refl s)

/-- No primitive change of a step writes the parameters (log 4). -/
theorem kept_config (p : Params) : Kept (fun s => s.config = p) where
  cpu _ _ _ h := h
  mem _ _ _ h := h
  onChip _ _ _ h := h
  intc16 _ _ _ h := h
  intc32 _ _ _ h := h
  cdRead _ h := h
  cdWrite _ _ _ h := h
  scuWrite _ _ _ h := h
  enqueue _ _ h := h
  dequeue _ _ _ _ h := h
  channel _ _ _ _ h := h
  raise s src h := by rwa [State.scuRaise_effect]
  halt _ _ h := h
  leave _ h := h

theorem keptByHost_config (p : Params) : KeptByHost (fun s => s.config = p) where
  inputs _ _ h := h
  active _ _ h := h
  cdRun _ _ h := h
  release _ _ h := h
  send _ _ _ h := h
  pin _ _ _ h := h
  resetScu _ h := h
  resetCd _ h := h
  powerOn _ _ _ _ _ _ h := h
  resume _ h := h

end Sys2Proof.Machine

namespace Sys2Proof.Proofs

open Sys2Proof.Machine

/-- Settles O35: the exception of the interrupt's vector, with the update of `enterInterrupt`, in the state whose pending
list has lost the interrupt. -/
theorem interruptEntry : Obligations.interrupt_entry := by
  rintro s d p1 p0 pv w content pending noCall running accepted vbrAligned spAligned place1 place0 placeVector rfl rfl
  set e := s.mapCpu fun c => { c with pending := c.pending.erase d } with e_def
  have eCpu : e.cpu = { s.cpu with pending := s.cpu.pending.erase d } := s.mapCpu_cpu _
  have eReg : e.reg Reg.sp = s.cpu.r.get 15 := by rw [State.reg, eCpu]
  set u := (e.withFrame p1 p0 e.cpu.sr.toWord e.cpu.pc).mapCpu (Cpu.enterInterrupt d) with u_def
  have uCpu : u.cpu = Cpu.enterInterrupt d { s.cpu with
      pending := s.cpu.pending.erase d, r := s.cpu.r.set 15 (s.cpu.r.get 15 - 8) } := by
    rw [u_def, State.mapCpu_cpu, State.withFrame_cpu, eCpu]
  have uRead : u.mem.read = putBytes (putBytes s.mem.read p1 4 s.cpu.sr.toWord) p0 4 s.cpu.pc := by
    rw [u_def, State.mapCpu_mem, State.withFrame_read, eCpu, e_def, State.mapCpu_mem]
  have vectorRead : plainLong u (u.cpu.vbr + (zext d.vector <<< 2)) = some (u.mem.read32 pv) := by
    rw [uCpu]
    exact plainLong_storage (add_shift_two_aligned _ vbrAligned) placeVector
  have taken : acceptInterrupt d s = .next ((u.setPc (u.mem.read32 pv)).setCycles s.config.intEntryCycles) :=
    takeException_storage (s := e) u_def (eReg ▸ spAligned) (eReg ▸ place1) (eReg ▸ place0) vectorRead
  have entered : cpuStep s = acceptInterrupt d s := by simp only [cpuStep, accepted]
  refine ⟨_, (step_running noCall running).trans (entered.trans taken), ?_, ?_, ?_⟩
  · refine ⟨rfl, ?_, rfl, rfl, rfl, rfl, rfl, rfl, rfl⟩
    rw [State.setCycles_other, State.setPc_other, u_def, State.mapCpu_other, State.withFrame_other, e_def,
      State.mapCpu_other]
  · rw [← uRead]
    exact fun _ => rfl
  · rw [State.setCycles_cpu, State.setPc_cpu, uCpu, ← uRead, ← d.entryMask]
    rfl

/-- Settles O60: within a step of a CPU only `ScuRaise` writes another CPU, and that the master. -/
theorem cpusAreSeparate : Obligations.cpus_are_separate := by
  intro s t next
  have config := (kept_config s.config).step_keeps (keptByHost_config s.config) (fun _ _ _ h => h) rfl next
  refine ⟨config, fun noCall => ?_⟩
  cases stopped : s.emulationStopped with
  | true => rw [step_stopped noCall stopped] at next; cases next
  | false =>
    rw [step_running noCall stopped] at next
    obtain ⟨-, active, slave, master⟩ := (cpuStep_otherCpuKept s).of_next next
    exact ⟨active, slave, master⟩

/-- Settles O36: the two cases of R520 on the one CPU that the call names. -/
theorem sendInterrupt : Obligations.send_interrupt := by
  intro s c d rest due running
  have sent (o : CpuId) := State.cpuOf_mapCpuOf { s with hostInputs := rest } c o fun cpu => cpu.sendInterrupt d
  have self := (sent c).trans (if_pos rfl)
  refine ⟨_, step_hostCall due running, fun o other => (sent o).trans (if_neg other), rfl, rfl, rfl, rfl,
    fun dropped => self.trans (Cpu.sendInterrupt_dropped dropped),
    fun level flag => self.trans (Cpu.sendInterrupt_appended level flag)⟩

/-- Settles O37: `ScuRaise` is its effect, and the rows of R524 are those of the four columns. -/
theorem scuRaise : Obligations.scu_raise := by
  refine ⟨?_, fun src vector level bit row => ?_, by decide, rfl, fun _ => Interrupt.level_eq_sixteen⟩
  · rintro s t src rfl
    rw [State.scuRaise_effect]
    refine ⟨fun k hk => getLsbD_or_one_shiftLeft _ hk, rfl, fun masked => if_pos masked, fun unmasked => ?_⟩
    exact if_neg (by rw [unmasked]; exact Bool.false_ne_true)
  · simp only [List.mem_cons, List.not_mem_nil, or_false, Prod.mk.injEq] at row
    rcases row with h | h | h | h | h | h | h | h | h | h | h | h | h | h
    all_goals obtain ⟨rfl, rfl, rfl, rfl⟩ := h; exact ⟨rfl, rfl, rfl, rfl⟩

end Sys2Proof.Proofs
end

section
/-!
SUPPORT. The canonical form of storage as a set of contents: two canonical lists of cells that read alike are the same list.
-/

namespace Sys2Proof.Machine

/-! ### Canonical lists of cells -/

theorem canonicalCells_cons_iff {a : Nat} {v : Byte} {l : List Host.Cell} :
    canonicalCells ((a, v) :: l) = true ↔ v ≠ Memory.unlisted ∧ cellsAbove a l = true := by
  rw [canonicalCells_cons, Bool.and_eq_true, decide_eq_true_eq]

theorem readCells_head (a : Nat) (v : Byte) (l : List Host.Cell) : readCells ((a, v) :: l) a = v := if_pos rfl

/-- Nothing is listed at or below the bound. -/
theorem readCells_of_cellsAbove {b q : Nat} {l : List Host.Cell} (h : cellsAbove b l = true) (hq : q ≤ b) :
    readCells l q = Memory.unlisted := by
  induction l generalizing b with
  | nil => rfl
  | cons x l ih =>
    obtain ⟨a, v⟩ := x
    simp only [cellsAbove, Bool.and_eq_true, decide_eq_true_eq] at h
    obtain ⟨⟨above, -⟩, rest⟩ := h
    rw [readCells, if_neg (by omega)]
    exact ih rest (by omega)

/-- Of two lists that read alike, neither can begin below the other: its first byte would read as unlisted there. -/
theorem head_le_of_same_reads {a b : Nat} {v w : Byte} {l m : List Host.Cell}
    (hl : canonicalCells ((a, v) :: l) = true) (hm : canonicalCells ((b, w) :: m) = true)
    (same : ∀ q, readCells ((a, v) :: l) q = readCells ((b, w) :: m) q) : a ≤ b := by
  obtain ⟨vListed, above⟩ := canonicalCells_cons_iff.mp hl
  obtain ⟨wListed, -⟩ := canonicalCells_cons_iff.mp hm
  by_contra below
  have lower : cellsAbove b ((a, v) :: l) = true := by simp [cellsAbove, vListed, above]; omega
  exact wListed (by rw [← readCells_head b w m, ← same b, readCells_of_cellsAbove lower le_rfl])

/-- Canonical lists that read alike are equal. -/
theorem canonicalCells_ext {l m : List Host.Cell} (hl : canonicalCells l = true) (hm : canonicalCells m = true)
    (same : ∀ q, readCells l q = readCells m q) : l = m := by
  induction l generalizing m with
  | nil =>
    cases m with
    | nil => rfl
    | cons y m =>
      obtain ⟨b, w⟩ := y
      exact absurd ((readCells_head b w m).symm.trans (same b).symm) (canonicalCells_cons_iff.mp hm).1
  | cons x l ih =>
    obtain ⟨a, v⟩ := x
    obtain ⟨vListed, above⟩ := canonicalCells_cons_iff.mp hl
    cases m with
    | nil => exact absurd ((readCells_head a v l).symm.trans (same a)) vListed
    | cons y m =>
      obtain ⟨b, w⟩ := y
      obtain rfl : a = b :=
        le_antisymm (head_le_of_same_reads hl hm same) (head_le_of_same_reads hm hl fun q => (same q).symm)
      obtain ⟨-, mAbove⟩ := canonicalCells_cons_iff.mp hm
      obtain rfl : v = w := by rw [← readCells_head a v l, same a, readCells_head]
      rw [ih (canonical_of_cellsAbove above) (canonical_of_cellsAbove mAbove) fun q => ?_]
      rcases Nat.lt_or_ge a q with beyond | upTo
      · have := same q
        rwa [readCells, readCells, if_neg beyond.ne, if_neg beyond.ne] at this
      · rw [readCells_of_cellsAbove above upTo, readCells_of_cellsAbove mAbove upTo]

end Sys2Proof.Machine

namespace Sys2Proof.Proofs

open Sys2Proof.Machine

/-- Settles O40: read at its own address, the first cell of either list determines the other's. -/
theorem canonicalMemoryIsUnique : Obligations.canonical_memory_is_unique := fun a b ha hb same =>
  congrArg Memory.mk (canonicalCells_ext (l := a.cells) (m := b.cells) ha hb same)

end Sys2Proof.Proofs
end

section
/-!
SUPPORT. Resets (R560 to R563, R445): what each leaves in the part of the state that it names, and that the invariants hold
after the reset of the whole core.
-/

namespace Sys2Proof.Machine

/-! ### The reset of the SCU (R562) -/

theorem Scu.reset_channel (level : Fin 3) : Scu.reset.channel level = ⟨0, 0, 0, 0x00000101, 0, 0x00000007⟩ := by
  revert level
  decide

theorem Scu.reset_latch (l : Fin 15) : Scu.reset.latches.get l = 0 := by
  revert l
  decide

/-! ### `powerOnReset()` of a CPU (R563) -/

/-- With both vectors in storage or unmapped, the reset is that of the CPU's registers and takes its free values. -/
theorem powerOnReset_plain {s : State} {pc sp : Word} (c : CpuId) (pcVector : plainLong s 0 = some pc)
    (spVector : plainLong s 4 = some sp) :
    ∃ t, powerOnReset c s = .next t ∧
      t.cpuOf c = (s.cpuOf c).powerOn pc sp (fun n => Config.freeWord (s.draws + n)) ∧
      (∀ o, o ≠ c → t.cpuOf o = s.cpuOf o) ∧ t = { s with master := t.master, slave := t.slave, draws := t.draws } := by
  have cpus (o : CpuId) := s.cpuOf_mapCpuOf c o fun cpu => cpu.powerOn pc sp fun n => Config.freeWord (s.draws + n)
  refine ⟨{ s.mapCpuOf c (fun cpu => cpu.powerOn pc sp fun n => Config.freeWord (s.draws + n)) with
    draws := s.draws + 20 }, ?_, (cpus c).trans (if_pos rfl), fun o other => (cpus o).trans (if_neg other), rfl⟩
  rw [powerOnReset, busRead32_plain pcVector, andThen_next]
  simp only [busRead32_plain spVector, andThen_next]

theorem Cpu.powerOn_sp (c : Cpu) (pc sp : Word) (free : Nat → Word) : (c.powerOn pc sp free).r.get 15 = sp := by
  simp [Cpu.powerOn, Vector.get_eq_getElem]

theorem Cpu.powerOn_levelFlag (c : Cpu) (pc sp : Word) (free : Nat → Word) (l : Fin 17) :
    (c.powerOn pc sp free).levelFlag l = false :=
  Cpu.reset_levelFlag l

end Sys2Proof.Machine

namespace Sys2Proof.Proofs

open Sys2Proof.Machine

/-- Settles O58: each invariant part by part, nothing being pending, listed or queued. -/
theorem resetMeetsTheInvariants : Obligations.reset_meets_the_invariants :=
  ⟨⟨Cpu.reset_consistent, Cpu.reset_consistent⟩, ⟨Memory.empty_wf, Memory.empty_wf, Memory.empty_wf⟩,
    State.reservedClear_iff.mpr ⟨Scu.reset_reservedClear _, Intc.reset_reservedClear, Intc.reset_reservedClear,
      Cd.reset_reservedClear _⟩,
    QueueOrdered.nil⟩

/-- Settles O57: both CPUs are `Cpu.reset`, whose vectors a memory without cells holds. -/
theorem resetState : Obligations.reset_state := by
  have vector0 : plainLong State.reset 0 = some 0 := by decide
  have vector4 : plainLong State.reset 4 = some 0 := by decide
  have cpu (c : CpuId) : State.reset.cpuOf c = Cpu.reset := by cases c <;> rfl
  refine ⟨fun c => ?_, Scu.reset_channel, rfl, rfl, rfl, Scu.reset_latch, rfl, rfl, rfl, rfl, rfl, rfl, by decide,
    by decide, rfl, rfl, rfl, rfl, rfl, rfl, rfl, rfl, rfl, rfl, rfl, rfl, rfl, rfl, rfl, rfl, rfl⟩
  rw [cpu c]
  exact ⟨rfl, rfl, rfl, rfl, Cpu.reset_levelFlag, rfl, rfl, rfl, rfl, memRead32_plain vector0, memRead32_plain vector4⟩

/-- Settles O59: each call is the whole step, and each reset replaces its own part of the state. -/
theorem resetsCalledByTheHost : Obligations.resets_called_by_the_host := by
  intro s rest running
  refine ⟨fun c pc sp due pcVector spVector => ?_, fun due => ?_, step_hostCall (running := running)⟩
  · obtain ⟨t, reset, self, others, frame⟩ := powerOnReset_plain (s := { s with hostInputs := rest }) c pcVector spVector
    refine ⟨t, (step_hostCall due running).trans reset, ?_⟩
    rw [self]
    exact ⟨rfl, Cpu.powerOn_sp _ _ _ _, rfl, rfl, rfl, rfl, Cpu.powerOn_levelFlag _ _ _ _, rfl, rfl, rfl, rfl, others,
      frame⟩
  · exact ⟨_, step_hostCall due running, rfl, Scu.reset_channel, rfl, rfl, Scu.reset_latch, rfl⟩

end Sys2Proof.Proofs
end

section
/-!
SUPPORT. The CD block (48_cdrom.md): its accesses from the bus, the flags of HIRQ as words, what each command answers and
the throttle leaves, and the periodic tick.
-/

namespace Sys2Proof.Machine

/-! ### The flags of HIRQ as words (R441) -/

theorem BitRange.set_eq_or_mask {n : Nat} {f : BitRange n} (reg : BitVec n) {v : BitVec n} (ones : v <<< f.first = f.mask) :
    f.set reg v = reg ||| f.mask := by
  unfold BitRange.set
  rw [ones]
  ext k hk
  simp only [BitVec.getElem_or, BitVec.getElem_and, BitVec.getElem_not]
  cases reg[k] <;> cases f.mask[k] <;> rfl

theorem BitRange.reset_eq_and_not_mask {n : Nat} (f : BitRange n) (reg : BitVec n) : f.reset reg = reg &&& ~~~f.mask := by
  simp [BitRange.reset, BitRange.set]

theorem Cd.raise_cmok (c : Cd) : c.raise hirqCmok = { c with hirq := c.hirq ||| 0x0001 } :=
  congrArg (fun h => { c with hirq := h }) (BitRange.set_eq_or_mask (f := hirqCmok) c.hirq (v := 1) (by decide))

theorem Cd.raise_efls (c : Cd) : c.raise hirqEfls = { c with hirq := c.hirq ||| 0x0200 } :=
  congrArg (fun h => { c with hirq := h }) (BitRange.set_eq_or_mask (f := hirqEfls) c.hirq (v := 1) (by decide))

theorem Cd.raise_scdq (c : Cd) : c.raise hirqScdq = { c with hirq := c.hirq ||| 0x0400 } :=
  congrArg (fun h => { c with hirq := h }) (BitRange.set_eq_or_mask (f := hirqScdq) c.hirq (v := 1) (by decide))

/-! ### Accesses (R442, R443) -/

section
variable {s : State} {a : Word} {off : Nat} {reg : CdReg} (aligned : a.toNat % 2 = 0) (place : s.place a = .cdBlock off)
  (register : CdReg.ofOffset off = some reg)
include aligned place register

theorem memRead16_cd : memRead16 a s = .next ((s.cd.read16 reg).1, { s with cd := (s.cd.read16 reg).2 }) := by
  simp [memRead16, busRead16, aligned, place, register]

theorem memWrite16_cd (v : Half) : memWrite16 a v s = .next { s with cd := s.cd.write16 s.config reg v } := by
  simp [memWrite16, aligned, place, register]

end

/-! ### Commands (R453 to R471) -/

/-- The mask that the throttle leaves HIRQ: all of it, or all but CMOK beyond the limit (R471). -/
def Cd.busyMask (c : Cd) : Half := if c.executedCommands + 1 > c.maxCommands then 0xFFFE else 0xFFFF

theorem Cd.throttle_eq (c : Cd) : c.throttle =
    { c with executedCommands := c.executedCommands + 1, hirq := c.hirq &&& c.busyMask } := by
  unfold Cd.throttle Cd.busyMask
  dsimp only
  split
  · rw [BitRange.reset_eq_and_not_mask]
    rfl
  · rw [show c.hirq &&& 0xFFFF = c.hirq from BitVec.and_allOnes]

/-- A command changes the response registers and HIRQ alone. -/
theorem Cd.runCommand_frame (c : Cd) (p : Params) (k : CdCommand) : c.runCommand p k = { c with
    cr1 := (c.runCommand p k).cr1, cr2 := (c.runCommand p k).cr2, cr3 := (c.runCommand p k).cr3
    cr4 := (c.runCommand p k).cr4, hirq := (c.runCommand p k).hirq } := by
  cases k with
  | abortFile =>
    unfold Cd.runCommand
    dsimp only
    split <;> rfl
  | _ => rfl

/-- Every command sets CMOK; `abort_file` also EFLS, if its parameter says so (R465). -/
theorem Cd.runCommand_hirq (c : Cd) (p : Params) (k : CdCommand) : (c.runCommand p k).hirq =
    c.hirq ||| (if k = .abortFile ∧ p.cdAbortSetsEfls = true then 0x0201 else 0x0001) := by
  cases k with
  | abortFile =>
    unfold Cd.runCommand
    dsimp only
    split
    next sets =>
      rw [if_pos ⟨rfl, sets⟩, Cd.raise_efls, Cd.raise_cmok]
      exact BitVec.or_assoc _ _ _
    next quiet =>
      rw [if_neg fun both => quiet both.2, Cd.raise_cmok]
      rfl
  | _ =>
    rw [if_neg fun both => CdCommand.noConfusion both.1]
    exact congrArg Cd.hirq (Cd.raise_cmok _)

/-- The response of `abort_file` is the status (R465). -/
theorem Cd.runCommand_abortFile (c : Cd) (p : Params) :
    c.runCommand p .abortFile = { c.sendStatus p with hirq := (c.runCommand p .abortFile).hirq } := by
  unfold Cd.runCommand
  dsimp only
  split <;> rfl

theorem Cd.dispatch_frame (c : Cd) (p : Params) : c.dispatch p = { c with
    cr1 := (c.dispatch p).cr1, cr2 := (c.dispatch p).cr2, cr3 := (c.dispatch p).cr3, cr4 := (c.dispatch p).cr4
    hirq := (c.dispatch p).hirq } := by
  unfold Cd.dispatch
  split
  · exact c.runCommand_frame p _
  · rfl

/-- A command is dispatched, counted, and beyond the limit its CMOK withdrawn (R453, R471). -/
theorem Cd.executeCommand_eq (c : Cd) (p : Params) : c.executeCommand p = { c.dispatch p with
    executedCommands := c.executedCommands + 1, hirq := (c.dispatch p).hirq &&& c.busyMask } := by
  have counter : (c.dispatch p).executedCommands = c.executedCommands := by rw [c.dispatch_frame p]
  have limit : (c.dispatch p).maxCommands = c.maxCommands := by rw [c.dispatch_frame p]
  have mask : (c.dispatch p).busyMask = c.busyMask := by rw [Cd.busyMask, counter, limit, ← Cd.busyMask]
  rw [Cd.executeCommand, Cd.throttle_eq, counter, mask]

theorem Cd.dispatch_of_code {c : Cd} {k : CdCommand} (p : Params)
    (code : CdCommand.ofCode (c.cr1.extractLsb' 8 8) = some k) : c.dispatch p = c.runCommand p k := by
  have code' : CdCommand.ofCode (crCommand.get c.cr1) = some k := code
  simp only [Cd.dispatch, code']

theorem Cd.dispatch_of_no_code {c : Cd} (p : Params)
    (code : CdCommand.ofCode (c.cr1.extractLsb' 8 8) = none) : c.dispatch p = c := by
  have code' : CdCommand.ofCode (crCommand.get c.cr1) = none := code
  simp only [Cd.dispatch, code']

theorem CdCommand.ofCode_eq_none {code : Byte} (other : code ∉ [0x00, 0x01, 0x06, 0x67, 0x75, 0xE1]) :
    CdCommand.ofCode code = none := by
  simp only [List.mem_cons, List.not_mem_nil, or_false, not_or] at other
  obtain ⟨h1, h2, h3, h4, h5, h6⟩ := other
  rw [CdCommand.ofCode, if_neg h1, if_neg h2, if_neg h3, if_neg h4, if_neg h5, if_neg h6]

/-- The trigger of a CR4 write, where the block takes commands: the command is run on the stored register, with the flag
of a command being written cleared (R443). -/
theorem Cd.write16_cr4_takes {c : Cd} {p : Params} (v : Half) (takes : c.takesCommands p = true) :
    c.write16 p .cr4 v = Cd.executeCommand { c with cr4 := v, commandBeingInitialized := false } p :=
  Cd.triggerCommand_of_takes (c := { c with cr4 := v }) takes

theorem Cd.write16_cr4_ignored {c : Cd} {p : Params} (v : Half) (ignored : c.takesCommands p = false) :
    c.write16 p .cr4 v = { c with cr4 := v } :=
  Cd.triggerCommand_of_not_takes (c := { c with cr4 := v }) ignored

/-! ### The periodic tick (R475) -/

theorem Cd.run_waiting {c : Cd} {p : Params} {n : Nat} (waiting : c.initializationDone = false) : c.run p n = c := by
  simp [Cd.run, waiting]

theorem Cd.run_counting {c : Cd} {p : Params} {n : Nat} (done : c.initializationDone = true)
    (left : 0 < c.elapsedCycles - n) : c.run p n = { c with elapsedCycles := c.elapsedCycles - n } := by
  simp [Cd.run, done, not_le.mpr left]

theorem Cd.run_ticking {c : Cd} {p : Params} {n : Nat} (done : c.initializationDone = true)
    (due : c.elapsedCycles - n ≤ 0) : c.run p n = Cd.tick { c with elapsedCycles := c.elapsedCycles - n } p := by
  rw [Cd.run, if_pos done]
  exact if_pos due

theorem Cd.tick_writing {c : Cd} (p : Params) (writing : c.commandBeingInitialized = true) : c.tick p = { c with
    executedCommands := 0, hirq := c.hirq ||| 0x0001, elapsedCycles := c.periodicDuration } := by
  simp only [Cd.tick, Cd.raise_cmok, writing, if_true]

/-- The tick publishes the status where no command is being written. -/
theorem Cd.tick_idle {c : Cd} (p : Params) (idle : c.commandBeingInitialized = false) : c.tick p = { c with
    executedCommands := 0, hirq := c.hirq ||| 0x0401, elapsedCycles := c.periodicDuration
    cr1 := c.driveStatus ++ p.cdReportB1, cr2 := p.cdReportW2, cr3 := p.cdReportW3, cr4 := p.cdReportW4 } := by
  have both : c.hirq ||| 0x0401 = c.hirq ||| 0x0001 ||| 0x0400 := (BitVec.or_assoc c.hirq 0x0001 0x0400).symm
  rw [both]
  simp only [Cd.tick, Cd.raise_cmok, Cd.raise_scdq, idle]
  rfl

end Sys2Proof.Machine

namespace Sys2Proof.Proofs

open Sys2Proof.Machine

/-- Settles O53: the store triggers one dispatch and one count; each code is one command's answer. -/
theorem cdCommands : Obligations.cd_commands := by
  rintro s a v _ _ _ c place aligned rfl rfl rfl rfl
  have stored := memWrite16_cd (reg := .cr4) aligned place rfl v
  refine ⟨fun before ignored => ?_, fun takes => ?_⟩
  · have deaf : s.cd.takesCommands s.config = false := by simp [Cd.takesCommands, before, ignored]
    rw [stored, Cd.write16_cr4_ignored v deaf]
  · rw [Cd.write16_cr4_takes v (Cd.takesCommands_iff.mpr takes), Cd.executeCommand_eq] at stored
    set e : Cd := { s.cd with cr4 := v, commandBeingInitialized := false } with e_def
    have answer {x : Byte} {k : CdCommand} (code : s.cd.cr1.extractLsb' 8 8 = x) (row : CdCommand.ofCode x = some k) :
        e.dispatch s.config = e.runCommand s.config k :=
      Cd.dispatch_of_code s.config (by rw [← row, ← code])
    have flags {x : Byte} {k : CdCommand} (code : s.cd.cr1.extractLsb' 8 8 = x) (row : CdCommand.ofCode x = some k) :
        (e.dispatch s.config).hirq = s.cd.hirq |||
          (if k = .abortFile ∧ s.config.cdAbortSetsEfls = true then 0x0201 else 0x0001) := by
      rw [answer code row]
      exact e.runCommand_hirq s.config k
    refine ⟨_, stored, ?frame, ?_, ?_, ?_, ?_, fun code => ?abort, ?_, fun codes => ?flags, fun other => ?unimplemented⟩
    case frame => conv_lhs => rw [e.dispatch_frame s.config]
    case abort =>
      have sent := (answer code rfl).trans (e.runCommand_abortFile s.config)
      refine ⟨congrArg Cd.cr1 sent, congrArg Cd.cr2 sent, congrArg Cd.cr3 sent, congrArg Cd.cr4 sent, ?_⟩
      rw [flags code rfl]
      simp only [true_and]
      rfl
    case flags =>
      simp only [List.mem_cons, List.not_mem_nil, or_false] at codes
      rcases codes with code | code | code | code | code
      all_goals exact congrArg (· &&& e.busyMask) (flags code rfl)
    case unimplemented =>
      rw [Cd.dispatch_of_no_code (c := e) s.config (CdCommand.ofCode_eq_none other)]
      exact ⟨rfl, rfl, rfl, rfl, rfl⟩
    all_goals
      intro code
      rw [answer code rfl]
      exact ⟨rfl, rfl, rfl, rfl⟩

/-- Settles O54: each offset is its register's, whose read and write are one case of `Cd.read16` and `Cd.write16`. -/
theorem cdRegisters : Obligations.cd_registers := by
  intro s a v writing aligned begun
  have flag : (s.cd.commandBeingInitialized || s.cd.takesCommands s.config) = writing := by
    rw [Bool.eq_iff_iff, begun, Bool.or_eq_true, Cd.takesCommands_iff]
  subst flag
  refine ⟨?_, ?_, ?_, ?_, ?_, fun place => memRead16_cd aligned place rfl⟩
  all_goals exact fun place => ⟨memRead16_cd aligned place rfl, memWrite16_cd aligned place rfl v⟩

/-- Settles O55: the four cases of `run(cycles)`. -/
theorem cdPeriodicTick : Obligations.cd_periodic_tick := by
  rintro s n rest c due running rfl
  exact ⟨_, step_hostCall due running, rfl, Cd.run_waiting, Cd.run_counting,
    fun done out writing => (Cd.run_ticking done out).trans (Cd.tick_writing _ writing),
    fun done out idle => (Cd.run_ticking done out).trans (Cd.tick_idle _ idle)⟩

end Sys2Proof.Proofs
end
